-- ==== Sys2Proof/Word.lean ====
section
/-! DEFINITION. The word types of the block: 64-bit addresses and record words (R9, R13), bytes, 32-bit registers. -/

namespace Sys2Proof

/-- A byte of guest memory or of a register. -/
abbrev Byte := BitVec 8

/-- A 64-bit address or record word; arithmetic on it is modulo 2^64 (R9, R13). -/
abbrev Word := BitVec 64

/-- A 4-byte register (R31, R33 to R36). -/
abbrev Reg32 := BitVec 32

end Sys2Proof
end

