-- ==== Sys2Proof/Machine/Bits.lean ====
section
/-! DEFINITION. Bit fields and byte order: the helpers that every format and register access is written with
(R12, R71, R72). -/

namespace Sys2Proof.Machine

/-- `v[i]` (R12). -/
def bit {w : Nat} (v : BitVec w) (i : Nat) : Bool := v.getLsbD i

/-- The field of `len` bits of `v` whose lowest bit is bit `lo`: `v[lo+len-1:lo]` (R12). -/
def field {w : Nat} (v : BitVec w) (lo len : Nat) : BitVec len := v.extractLsb' lo len

/-- `v` with bit `i` replaced. -/
def withBit {w : Nat} (v : BitVec w) (i : Nat) (b : Bool) : BitVec w :=
  if b then v ||| BitVec.twoPow w i else v &&& ~~~(BitVec.twoPow w i)

/-- `v` with the field of `len` bits at `lo` replaced. -/
def withField {w : Nat} (v : BitVec w) (lo len : Nat) (x : BitVec len) : BitVec w :=
  (v &&& ~~~((BitVec.allOnes len).setWidth w <<< lo)) ||| (x.setWidth w <<< lo)

/-- The mask `2^k - 1` as a 64-bit word (R13). -/
def lowMask (k : Nat) : Word := BitVec.ofNat 64 (2 ^ k - 1)

/-- The address of a page number: `PPN << 12`. -/
def pageAddr {w : Nat} (ppn : BitVec w) : Word := ppn.setWidth 64 <<< 12

/-- The little-endian integer of a list of bytes (R71). -/
def leNat : List Byte → Nat
  | [] => 0
  | b :: bs => b.toNat + 256 * leNat bs

/-- The `n` low bytes of `v` in little-endian order (R71). -/
def leBytes : (n : Nat) → (v : Nat) → List Byte
  | 0, _ => []
  | n + 1, v => BitVec.ofNat 8 v :: leBytes n (v / 256)

/-- The 64-bit word at the front of a list of bytes. -/
def wordOf (bs : List Byte) : Word := BitVec.ofNat 64 (leNat (bs.take 8))

/-- Byte `k` of a word: bits `[8k+7:8k]` (R71, R72). -/
def byteOf (v : Word) (k : Nat) : Byte := v.extractLsb' (8 * k) 8

end Sys2Proof.Machine
end

