-- ==== Sys2Proof/Syntax.lean ====
section
/-! DEFINITION. The commands of spec/opcode_table.json, one constructor per row, each with every operand field that
R122 to R127 give it. -/

namespace Sys2Proof

/-- A command of the command queue (R118 to R127). Reserved bits are no operands (R129). -/
inductive Instr where
  /-- IOTINVAL.VMA (R122, R293). `addr` is bits 63:10 of the address word (log 14). -/
  | iotinvalVma (av : Bool) (pscid : BitVec 20) (pscv gv : Bool) (gscid : BitVec 16) (addr : BitVec 54)
  /-- IOTINVAL.GVMA (R122, R294). -/
  | iotinvalGvma (av : Bool) (pscid : BitVec 20) (pscv gv : Bool) (gscid : BitVec 16) (addr : BitVec 54)
  /-- IOFENCE.C (R126, R296). `addr` is the completion address, 4-byte aligned when well-formed (R74). -/
  | iofenceC (av wsi pr pw : Bool) (data : BitVec 32) (addr : Word)
  /-- IODIR.INV_DDT (R124, R297). -/
  | iodirInvDdt (pid : BitVec 20) (dv : Bool) (did : BitVec 24)
  /-- IODIR.PRE_DDT (R125, R298). -/
  | iodirPreDdt (pid : BitVec 20) (dv : Bool) (did : BitVec 24)
  /-- IODIR.INV_PDT (R124, R299). -/
  | iodirInvPdt (pid : BitVec 20) (dv : Bool) (did : BitVec 24)
  /-- IODIR.PRE_PDT (R125, R300). -/
  | iodirPrePdt (pid : BitVec 20) (dv : Bool) (did : BitVec 24)
  /-- ATS.INVAL (R127, R301). -/
  | atsInval (pid : BitVec 20) (pv dsv : Bool) (rid : BitVec 16) (dseg : BitVec 8) (payload : Word)
  /-- ATS.PRGR (R127, R302). -/
  | atsPrgr (pid : BitVec 20) (pv dsv : Bool) (rid : BitVec 16) (dseg : BitVec 8) (payload : Word)
deriving DecidableEq, Repr

end Sys2Proof
end

