-- ==== Sys2Proof/WellFormed.lean ====
section
/-! DEFINITION. Which command terms stand for an encoding. Every operand but one is a bit vector of exactly its field's
width, so the one check is the alignment of the IOFENCE.C completion address. -/

namespace Sys2Proof

/-- The low two bits are not part of the IOFENCE.C ADDR field, so a completion address is 4-byte aligned (R74, R126). -/
def fenceAddressAligned (addr : Word) : Bool := addr &&& 3 == 0

/-- A term is well-formed when every operand is a value that its encoding admits. -/
def Instr.wellFormed : Instr → Bool
  | .iotinvalVma _ _ _ _ _ _ => true
  | .iotinvalGvma _ _ _ _ _ _ => true
  | .iofenceC _ _ _ _ _ addr => fenceAddressAligned addr
  | .iodirInvDdt _ _ _ => true
  | .iodirPreDdt _ _ _ => true
  | .iodirInvPdt _ _ _ => true
  | .iodirPrePdt _ _ _ => true
  | .atsInval _ _ _ _ _ _ => true
  | .atsPrgr _ _ _ _ _ _ => true

end Sys2Proof
end

