-- ==== Sys2Proof/Decode.lean ====
section
/-! DEFINITION. The command decoder (R118 to R131), total on any bytes and rejecting by name, and after it the encoder. -/

namespace Sys2Proof

open Machine

/-- Why a list of bytes is no command. -/
inductive DecodeError where
  /-- `request[9:0]` is none of the nine codes of R121: an illegal command (R128). -/
  | illegalOpcode (op : BitVec 10)
  /-- A command is exactly 16 bytes (R131). -/
  | notSixteenBytes (n : Nat)
deriving DecidableEq, Repr

/-- The command codes of R121. -/
inductive Opcode where
  | iotinvalVma | iotinvalGvma | iofenceC | iodirInvDdt | iodirPreDdt | iodirInvPdt | iodirPrePdt | atsInval | atsPrgr
deriving DecidableEq, Repr

/-- The code table of R121, which is also spec/opcode_table.json (`CMD_CODE`, log 1). -/
def Opcode.code : Opcode → BitVec 10
  | .iotinvalVma => 0x001
  | .iotinvalGvma => 0x081
  | .iofenceC => 0x002
  | .iodirInvDdt => 0x003
  | .iodirPreDdt => 0x083
  | .iodirInvPdt => 0x103
  | .iodirPrePdt => 0x183
  | .atsInval => 0x004
  | .atsPrgr => 0x084

/-- Every recognized command, in the order of R121. -/
def Opcode.all : List Opcode :=
  [.iotinvalVma, .iotinvalGvma, .iofenceC, .iodirInvDdt, .iodirPreDdt, .iodirInvPdt, .iodirPrePdt, .atsInval, .atsPrgr]

/-- "The decoder compares all ten bits" (R119). -/
def opcodeOf (op : BitVec 10) : Option Opcode := Opcode.all.find? (fun o => o.code == op)

/-- The operands of a recognized command, from its request and address words (R122, R124, R126, R127). -/
def decodeOperands (o : Opcode) (req addr : Word) : Instr :=
  match o with
  | .iotinvalVma =>
    .iotinvalVma (bit req 10) (field req 12 20) (bit req 32) (bit req 33) (field req 44 16) (field addr 10 54)
  | .iotinvalGvma =>
    .iotinvalGvma (bit req 10) (field req 12 20) (bit req 32) (bit req 33) (field req 44 16) (field addr 10 54)
  | .iofenceC =>
    .iofenceC (bit req 10) (bit req 11) (bit req 12) (bit req 13) (field req 32 32) (addr &&& ~~~3)
  | .iodirInvDdt => .iodirInvDdt (field req 12 20) (bit req 33) (field req 40 24)
  | .iodirPreDdt => .iodirPreDdt (field req 12 20) (bit req 33) (field req 40 24)
  | .iodirInvPdt => .iodirInvPdt (field req 12 20) (bit req 33) (field req 40 24)
  | .iodirPrePdt => .iodirPrePdt (field req 12 20) (bit req 33) (field req 40 24)
  | .atsInval => .atsInval (field req 12 20) (bit req 32) (bit req 33) (field req 40 16) (field req 56 8) addr
  | .atsPrgr => .atsPrgr (field req 12 20) (bit req 32) (bit req 33) (field req 40 16) (field req 56 8) addr

/-- The command of a request word and an address word (R118, R119). -/
def decodeWords (req addr : Word) : Except DecodeError Instr :=
  match opcodeOf (field req 0 10) with
  | some o => .ok (decodeOperands o req addr)
  | none => .error (.illegalOpcode (field req 0 10))

/-- The command of 16 bytes as they lie in memory: dword 0 is the request, dword 1 the address (R71, R118, R131). -/
def decode (bytes : List Byte) : Except DecodeError Instr :=
  if bytes.length = 16 then decodeWords (wordOf bytes) (wordOf (bytes.drop 8))
  else .error (.notSixteenBytes bytes.length)

/-- The decoder on an instruction whose bits are `w`, numbered as spec/opcode_table.json numbers them; bits from `nbits`
up are 0. -/
def decodeTableWord (nbits w : Nat) : Option Instr :=
  match decode (leBytes 16 (w % 2 ^ nbits)) with
  | .ok i => some i
  | .error _ => none

/-- A field's value at its place in a word. -/
def place {n : Nat} (v : BitVec n) (lo : Nat) : Word := v.setWidth 64 <<< lo

/-- A flag's value at its place in a word. -/
def placeBit (b : Bool) (lo : Nat) : Word := place (BitVec.ofBool b) lo

/-- The request and address words of an IOTINVAL command (R122). -/
def encodeIotinval (o : Opcode) (av : Bool) (pscid : BitVec 20) (pscv gv : Bool) (gscid : BitVec 16)
    (addr : BitVec 54) : Word × Word :=
  (place o.code 0 ||| placeBit av 10 ||| place pscid 12 ||| placeBit pscv 32 ||| placeBit gv 33 ||| place gscid 44,
    place addr 10)

/-- The request and address words of an IODIR command (R124). -/
def encodeIodir (o : Opcode) (pid : BitVec 20) (dv : Bool) (did : BitVec 24) : Word × Word :=
  (place o.code 0 ||| place pid 12 ||| placeBit dv 33 ||| place did 40, 0)

/-- The request and address words of an ATS command (R127). -/
def encodeAts (o : Opcode) (pid : BitVec 20) (pv dsv : Bool) (rid : BitVec 16) (dseg : BitVec 8)
    (payload : Word) : Word × Word :=
  (place o.code 0 ||| place pid 12 ||| placeBit pv 32 ||| placeBit dsv 33 ||| place rid 40 ||| place dseg 56, payload)

/-- The request and address words of a command, reserved bits 0 (R118 to R127). -/
def encode : Instr → Word × Word
  | .iotinvalVma av pscid pscv gv gscid addr => encodeIotinval .iotinvalVma av pscid pscv gv gscid addr
  | .iotinvalGvma av pscid pscv gv gscid addr => encodeIotinval .iotinvalGvma av pscid pscv gv gscid addr
  | .iofenceC av wsi pr pw data addr =>
    (place Opcode.iofenceC.code 0 ||| placeBit av 10 ||| placeBit wsi 11 ||| placeBit pr 12 ||| placeBit pw 13
      ||| place data 32, addr)
  | .iodirInvDdt pid dv did => encodeIodir .iodirInvDdt pid dv did
  | .iodirPreDdt pid dv did => encodeIodir .iodirPreDdt pid dv did
  | .iodirInvPdt pid dv did => encodeIodir .iodirInvPdt pid dv did
  | .iodirPrePdt pid dv did => encodeIodir .iodirPrePdt pid dv did
  | .atsInval pid pv dsv rid dseg payload => encodeAts .atsInval pid pv dsv rid dseg payload
  | .atsPrgr pid pv dsv rid dseg payload => encodeAts .atsPrgr pid pv dsv rid dseg payload

/-- The 16 bytes of a command as they lie in memory (R71, R118). -/
def encodeBytes (i : Instr) : List Byte :=
  leBytes 8 (encode i).1.toNat ++ leBytes 8 (encode i).2.toNat

end Sys2Proof
end

