-- ==== Sys2Proof/Config.lean ====
section
/-! DEFINITION. The implementation parameters of R8 that stay parameters of the model (log 2), and the one free value (log 5). -/

namespace Sys2Proof

/-- The parameters of R8. They are held in the state as plain data and no step changes them, so a statement about
every state is a statement about every choice of them. -/
structure Config where
  /-- `MSI_ENABLED`: the Device Context stride is 64 bytes (else 32) and the MSI window check runs. -/
  msiEnabled : Bool
  /-- `CAPS_VALUE`: what the CAPS register reads. -/
  capsValue : Word
  /-- `NUM_VECTORS`: at most 16, since the entries fill 0x300 to 0x3FF (R25, R38). -/
  numVectors : Fin 17
  /-- `DID_WIDTH`: the width of a device identifier (R103). -/
  didWidth : Nat
deriving DecidableEq, Repr

/-- The defaults of R8. -/
def Config.standard : Config :=
  { msiEnabled := true, capsValue := 0, numVectors := 16, didWidth := 24 }

/-- The bytes that a failed write leaves behind: "The model leaves those bytes as any value" (R78). The argument is the
draw's number (`State.draws`). FREE VALUE, log 5: no body, so nothing can be proved of it. -/
opaque Config.failedWriteByte : Nat → Byte

end Sys2Proof
end

