-- ==== Sys2Proof/Machine/State.lean ====
section
/-! DEFINITION. The state of the block as plain data: the register file (10_state.md section 2), the internal state
(10_state.md section 4), guest memory, the translations in flight (R349), and the agents' moves still to come (R86). -/

namespace Sys2Proof.Machine

/-- An access type of a translation request (R14). -/
inductive Access where
  | none | read | write | rw
deriving DecidableEq, Repr

/-- The permission of a translation result (R14). -/
inductive Perm where
  | none | r | w | rw
deriving DecidableEq, Repr

/-- The directory modes (R42, R104). A reserved code is no mode (R105). -/
inductive DdtMode where
  | off | bare | lvl1 | lvl2 | lvl3
deriving DecidableEq, Repr

/-- The fault causes of R371. -/
inductive Cause where
  | readAddrMisaligned | readAccessFault | writeAddrMisaligned | writeAccessFault
  | pageFaultRead | pageFaultWrite | guestPageFaultRead | guestPageFaultWrite
  | dmaDisabled | ddtFault | ddtInvalid | ddtUnsupported | mrifFault | pdtFault | pdtInvalid | pdtUnsupported
deriving DecidableEq, Repr

/-- The three queues (R15). -/
inductive QueueId where
  | cq | fq | pq
deriving DecidableEq, Repr

/-- One queue: its registers (R30, R31, R33 to R35), its latched descriptor (R43) and its armed flag (R46). -/
structure Queue where
  /-- `<Q>B` -/
  qb : Word
  /-- `<Q>H` -/
  qh : Reg32
  /-- `<Q>T` -/
  qt : Reg32
  /-- `<Q>CSR` -/
  csr : Reg32
  /-- `s.<q>_base` -/
  base : Word
  /-- `s.<q>_mask` -/
  mask : Word
  /-- `s.armed_<q>` -/
  armed : Bool
deriving DecidableEq, Repr

/-- One entry of the MSI configuration table (R38). -/
structure MsiEntry where
  addr : Word
  data : Reg32
  ctrl : Reg32
deriving DecidableEq, Repr

/-- A Device Context: the eight 8-byte fields of R112. -/
structure DC where
  tc : Word
  gatp : Word
  satp : Word
  pscid : Word
  msiptp : Word
  msiAddrMask : Word
  msiAddrPattern : Word
  reserved : Word
deriving DecidableEq, Repr

/-- The Device Context of all zeros, which a cache entry holds before its first fill (R342). -/
def DC.zero : DC :=
  { tc := 0, gatp := 0, satp := 0, pscid := 0, msiptp := 0, msiAddrMask := 0, msiAddrPattern := 0, reserved := 0 }

/-- One device address space of `s.das` (R47): the device id, its cached context and the flag of R48. -/
structure DasEntry where
  did : Word
  dc : DC
  valid : Bool
deriving DecidableEq, Repr

/-- The device-context cache: a map from device ids, as a list with its device ids strictly rising. -/
abbrev DasCache := List DasEntry

/-- The cache's canonical form, in which equal caches are equal lists. -/
abbrev DasCache.wf (c : DasCache) : Prop := c.Pairwise (fun a b => a.did.toNat < b.did.toNat)

/-- Guest-physical memory (R50): the bytes that differ from what an unlisted address reads as. -/
abbrev Memory := List Host.Cell

/-- What an unlisted byte of guest memory reads as. DESIGN CHOICE, unsafe (log 3): the spec says only that reset does not
touch guest memory (R400); 95_test_vectors.md takes unmapped memory as 0. -/
def Memory.unlisted : Byte := 0

/-- The canonical form: addresses strictly rising and below 2^64, and no entry that equals an unlisted byte. -/
abbrev Memory.wf (m : Memory) : Prop :=
  m.Pairwise (fun a b => a.1 < b.1) ∧ ∀ c ∈ m, c.2 ≠ Memory.unlisted ∧ c.1 < 2 ^ 64

/-- A range of guest addresses, both ends included. -/
structure Range where
  lo : Nat
  hi : Nat
deriving DecidableEq, Repr

/-- A radix configuration of R111: levels, index bits per level, bytes of a PTE. -/
structure Radix where
  levels : Nat
  indexBits : Nat
  pteSize : Nat
deriving DecidableEq, Repr

/-- A stage pass of the page-table walker under way (R211, R215): which stage, the address it translates, its
configuration, the level and table base of the next PTE, and for a chained stage-two pass the permission of the
stage-one leaf. -/
structure Pass where
  stageOne : Bool
  addr : Word
  radix : Radix
  level : Nat
  base : Word
  outer : Option Perm
deriving DecidableEq, Repr

/-- Where a translation in flight stands: the atomic step it takes next (R349). -/
inductive Phase where
  /-- Read the directory entry of `level` intermediate levels above the leaf, or the Device Context when `level = 0`,
  in the table at `base` (R184, R186). -/
  | dirRead (level : Nat) (base : Word)
  /-- Write the fetched context back to the cache (R342). -/
  | fill (dc : DC)
  /-- Read a PTE (R216). -/
  | pteRead (dc : DC) (pass : Pass)
  /-- Report a fault (R347). -/
  | report (cause : Cause) (phys : Word)
deriving DecidableEq, Repr

/-- A translation in flight (R349): its request (R137), the directory mode and base it sampled, and its phase. -/
structure Flight where
  tag : Nat
  did : Word
  iova : Word
  access : Access
  mode : DdtMode
  root : Word
  phase : Phase
deriving DecidableEq, Repr

/-- The result record of a translation (R14). -/
structure TranslateResult where
  iova : Word
  translatedAddr : Word
  addrMask : Word
  perm : Perm
deriving DecidableEq, Repr

/-- One atomic step of one agent (R10, R86), named from outside. -/
inductive Event where
  /-- An MMIO read of `size` bytes at window offset `offset` (R150). -/
  | mmioRead (offset size : Nat)
  /-- An MMIO write of the low `size` bytes of `value` (R152). -/
  | mmioWrite (offset size : Nat) (value : Word)
  /-- A translation request, with its first step (R137, R349). -/
  | translate (did iova : Word) (access : Access)
  /-- The next step of the translation in flight that has this tag (R349). -/
  | advance (tag : Nat)
  /-- A step of the Command Processor (R272). -/
  | processor
  /-- The host or another bus agent stores bytes to guest memory (R86). -/
  | hostWrite (addr : Word) (bytes : List Byte)
  /-- The host changes the ranges whose reads it answers `Fail` (R78). -/
  | hostNoRead (ranges : List Range)
  /-- The host changes the ranges whose writes it answers `Fail` (R78). -/
  | hostNoWrite (ranges : List Range)
  /-- The host changes byte `index` of the MSI pending-bit array (R39, R383). -/
  | hostPba (index : Nat) (value : Byte)
deriving DecidableEq, Repr

/-- What the block hands out. -/
inductive Response where
  /-- The value an MMIO read returns (R150). -/
  | mmioData (offset size : Nat) (value : Word)
  /-- The result of the translation with this tag (R14, R350). -/
  | translated (tag : Nat) (result : TranslateResult)
  /-- `Notify(vector)`, for a vector that the configuration has, with the entry of the MSI configuration table that the
  block hands to the sink (R12, R38, R383). -/
  | notify (vector : Nat) (entry : MsiEntry)
deriving DecidableEq, Repr

/-- The machine. -/
structure State where
  /-- The parameters of R8 that this machine was built with; no step changes them. -/
  cfg : Config
  /-- DDTP (R28). -/
  ddtp : Word
  /-- The command queue. -/
  cq : Queue
  /-- The fault queue. -/
  fq : Queue
  /-- The page-request queue. -/
  pq : Queue
  /-- IPSR (R36). -/
  ipsr : Reg32
  /-- ICVEC (R37). -/
  icvec : Word
  /-- The MSI configuration table (R38). -/
  msi : List MsiEntry
  /-- The pending bits the host shows in the PBA (R39, log 8). -/
  pba : List Byte
  /-- `s.ddt_mode` (R42). -/
  ddtMode : DdtMode
  /-- `s.ddt_base` (R42). -/
  ddtBase : Word
  /-- `s.cq_doorbell` (R45). -/
  cqDoorbell : Bool
  /-- `s.cq_draining` (R49). -/
  cqDraining : Bool
  /-- `s.das` (R47). -/
  das : DasCache
  /-- Guest-physical memory (R50). -/
  mem : Memory
  /-- The ranges whose reads the host answers `Fail` (R78, log 4). -/
  noRead : List Range
  /-- The ranges whose writes the host answers `Fail` (R78, log 4). -/
  noWrite : List Range
  /-- The translations in flight, oldest first (R349). -/
  flights : List Flight
  /-- MODEL'S OWN: the tag of the next translation (log 11). -/
  nextTag : Nat
  /-- MODEL'S OWN: how many free bytes have been drawn (log 5). -/
  draws : Nat
  /-- MODEL'S OWN: the agents' moves still to come, next first (log 6). -/
  agenda : List Event
  /-- MODEL'S OWN: what the block has handed out, newest first (log 7). -/
  outbox : List Response
deriving DecidableEq, Repr

/-- A step that stops the machine. It has no constructor: no rule of the spec stops the block. Translation faults become
fault records (R370), queue errors become status bits (R375), MMIO accesses never fault (R376) (log 10). Safe: there is
nothing that a stop could hide. -/
inductive Fault where
deriving DecidableEq, Repr

/-- A step to which the spec gives no meaning. -/
inductive Refusal where
  /-- Raised by an arm of `exec` whose instruction has no meaning yet (no arm of this model does). Safe: the machine
  stops where the hardware goes on. -/
  | notModelled (mnemonic : String)
  /-- Raised by an MMIO access of a size other than 1, 2, 4 or 8 bytes, which "the bus does not present" and "a model
  refuses" (R157). Safe: the hardware has no such access. -/
  | mmioSize (size : Nat)
deriving DecidableEq, Repr

/-- A queue after reset (R51, R400). -/
def Queue.reset : Queue := { qb := 0, qh := 0, qt := 0, csr := 0, base := 0, mask := 0, armed := false }

/-- An entry of the MSI table after reset (R51). -/
def MsiEntry.reset : MsiEntry := { addr := 0, data := 0, ctrl := 0 }

/-- How many bytes the PBA has: `ceil(NUM_VECTORS / 8)` (R25). -/
def pbaBytes (cfg : Config) : Nat := (cfg.numVectors.val + 7) / 8

/-- A machine of the given parameters after power-on (R51, R400). -/
def State.resetWith (cfg : Config) : State :=
  { cfg := cfg
    ddtp := 0
    cq := Queue.reset
    fq := Queue.reset
    pq := Queue.reset
    ipsr := 0
    icvec := 0
    msi := List.replicate cfg.numVectors.val MsiEntry.reset
    pba := List.replicate (pbaBytes cfg) 0
    ddtMode := .off
    ddtBase := 0
    cqDoorbell := false
    cqDraining := false
    das := []
    mem := []
    noRead := []
    noWrite := []
    flights := []
    nextTag := 0
    draws := 0
    agenda := []
    outbox := [] }

/-- The machine right after reset (R400), with the default parameters of R8. -/
def State.reset : State := State.resetWith Config.standard

end Sys2Proof.Machine
end

