-- ==== Sys2Proof/Machine/Flags.lean ====
section
/-! DEFINITION. The status and control bits (10_state.md section 3): where each stands, who raises it, who clears it. -/

namespace Sys2Proof.Machine

/-- `<Q>CSR.ENABLE` (R33 to R35). -/
abbrev enableBit : Nat := 0
/-- `<Q>CSR.IRQ_ENABLE`. -/
abbrev irqEnableBit : Nat := 1
/-- CQ_FAULT, FQ_FAULT, PQ_FAULT. -/
abbrev faultBit : Nat := 8
/-- FQ_FULL, PQ_FULL (R34, R35). -/
abbrev fullBit : Nat := 9
/-- CQ_ERROR (R33). -/
abbrev errorBit : Nat := 10
/-- `<Q>CSR.ACTIVE`. -/
abbrev activeBit : Nat := 16
/-- `<Q>CSR.BUSY`. -/
abbrev busyBit : Nat := 17
/-- `DDTP.BUSY` (R28). -/
abbrev ddtpBusyBit : Nat := 4

/-- The "fault/full/error bits" that an enable transition clears (R275): CQ_FAULT and CQ_ERROR, or fault and full. -/
def clearErrors (q : QueueId) (csr : Reg32) : Reg32 :=
  match q with
  | .cq => withBit (withBit csr faultBit false) errorBit false
  | .fq => withBit (withBit csr faultBit false) fullBit false
  | .pq => withBit (withBit csr faultBit false) fullBit false

/-- A drain pass may start: the queue is active and neither CQ_FAULT nor CQ_ERROR is set (R279). -/
def drainAllowed (csr : Reg32) : Bool := bit csr activeBit && !bit csr faultBit && !bit csr errorBit

/-- A fault is recorded: the queue is active and neither FQ_FAULT nor FQ_FULL is set (R320). -/
def recordAllowed (csr : Reg32) : Bool := bit csr activeBit && !bit csr faultBit && !bit csr fullBit

/-- The pending bit of a queue in IPSR (R36): CIP, FIP, PIP. -/
def pendingBit : QueueId → Nat
  | .cq => 0
  | .fq => 1
  | .pq => 3

/-- The vector of a queue in ICVEC (R37): CIV, FIV, PIV. -/
def vectorOf (icvec : Word) : QueueId → Nat
  | .cq => (field icvec 0 4).toNat
  | .fq => (field icvec 4 4).toNat
  | .pq => (field icvec 12 4).toNat

end Sys2Proof.Machine
end

