-- ==== Sys2Proof/Machine/Operands.lean ====
section
/-! DEFINITION. The formats the block decodes and writes (30_encoding.md): the directory pointer, queue bases, directory
entries, Device Contexts, translation pointers, PTEs, and the fault record. -/

namespace Sys2Proof.Machine

/-! ### DDTP and the queue base registers (R28, R30, R104) -/

/-- `DDTP.MODE`. -/
def ddtpMode (v : Word) : BitVec 4 := field v 0 4

/-- `DDTP.PPN`. -/
def ddtpPpn (v : Word) : BitVec 44 := field v 10 44

/-- The mode a `DDTP.MODE` code names, none for the reserved codes 5 to 15 (R104, `DDTP_MODE_CODE`, log 1). -/
def ddtModeOfCode (code : BitVec 4) : Option DdtMode :=
  if code = 0 then some .off
  else if code = 1 then some .bare
  else if code = 2 then some .lvl1
  else if code = 3 then some .lvl2
  else if code = 4 then some .lvl3
  else none

/-- The code of a directory mode (R104). -/
def ddtModeCode : DdtMode → BitVec 4
  | .off => 0
  | .bare => 1
  | .lvl1 => 2
  | .lvl2 => 3
  | .lvl3 => 4

/-- How many intermediate levels a directory mode has; none in OFF and BARE (R104, R181). -/
def directoryDepth : DdtMode → Option Nat
  | .off => none
  | .bare => none
  | .lvl1 => some 0
  | .lvl2 => some 1
  | .lvl3 => some 2

/-- `<Q>B.LOG2SZM1`. -/
def queueLog2 (qb : Word) : BitVec 5 := field qb 0 5

/-- `<Q>B.PPN`. -/
def queuePpn (qb : Word) : BitVec 44 := field qb 10 44

/-- The index mask of a queue base register: `2^(LOG2SZM1+1) - 1` (R30). -/
def queueMask (qb : Word) : Word := lowMask ((queueLog2 qb).toNat + 1)

/-! ### The device directory (R101 to R103) -/

/-- The number of leaf index bits `L` (R102). -/
def leafBits (cfg : Config) : Nat := if cfg.msiEnabled then 6 else 7

/-- The stride and size of a Device Context in memory (R112, R186). -/
def dcStride (cfg : Config) : Nat := if cfg.msiEnabled then 64 else 32

/-- The device id is representable at this depth and within `DID_WIDTH` bits (R103, R182). -/
def didInRange (cfg : Config) (depth : Nat) (did : Word) : Bool :=
  did >>> (leafBits cfg + 9 * depth) == 0 && did >>> cfg.didWidth == 0

/-- The index field DDI[level] of a device id (R102). -/
def directoryIndex (cfg : Config) (did : Word) : (level : Nat) → Word
  | 0 => did &&& lowMask (leafBits cfg)
  | level + 1 => did >>> (leafBits cfg + 9 * level) &&& 0x1FF

/-- The valid bit of a non-leaf directory entry (R101). -/
def ddtEntryValid (e : Word) : Bool := bit e 0

/-- The page number of a non-leaf directory entry (R101). -/
def ddtEntryPpn (e : Word) : BitVec 44 := field e 10 44

/-! ### The Device Context (R112 to R117) -/

/-- A Device Context from the bytes read; bytes beyond those read are 0 (R112, R187). -/
def DC.ofBytes (bs : List Byte) : DC :=
  { tc := wordOf bs
    gatp := wordOf (bs.drop 8)
    satp := wordOf (bs.drop 16)
    pscid := wordOf (bs.drop 24)
    msiptp := wordOf (bs.drop 32)
    msiAddrMask := wordOf (bs.drop 40)
    msiAddrPattern := wordOf (bs.drop 48)
    reserved := wordOf (bs.drop 56) }

/-- `tc.V` (R113). -/
def DC.isValid (dc : DC) : Bool := bit dc.tc 0

/-- `tc.DTF`, disable fault reporting (R113). -/
def DC.disableFault (dc : DC) : Bool := bit dc.tc 4

/-- `tc.PDTV`, satp holds a process-directory pointer (R113). -/
def DC.pdtv (dc : DC) : Bool := bit dc.tc 5

/-- The modes of `msiptp` (R117). -/
inductive MsiMode where
  | off | bare | flat | unrecognized
deriving DecidableEq, Repr

/-- `msiptp.MODE` (R115, R117, `MSI_MODE_CODE`, log 1). -/
def DC.msiMode (dc : DC) : MsiMode :=
  let code := field dc.msiptp 60 4
  if code = 0 then .off else if code = 1 then .bare else if code = 2 then .flat else .unrecognized

/-! ### Translation pointers and PTEs (R106 to R111) -/

/-- What an ATP's MODE selects (R110). -/
inductive AtpMode where
  | bare
  | radix (r : Radix)
  | unrecognized
deriving DecidableEq, Repr

/-- Sv32 and Sv32x4 (R111). -/
def sv32 : Radix := { levels := 2, indexBits := 10, pteSize := 4 }
/-- Sv39 and Sv39x4. -/
def sv39 : Radix := { levels := 3, indexBits := 9, pteSize := 8 }
/-- Sv48 and Sv48x4. -/
def sv48 : Radix := { levels := 4, indexBits := 9, pteSize := 8 }
/-- Sv57 and Sv57x4. -/
def sv57 : Radix := { levels := 5, indexBits := 9, pteSize := 8 }

/-- The configuration of an ATP (R109, R110, `ATP_MODE_CODE`, log 1). -/
def atpMode (atp : Word) : AtpMode :=
  let code := field atp 60 4
  if code = 0 then .bare
  else if code = 1 then .radix sv32
  else if code = 8 then .radix sv39
  else if code = 9 then .radix sv48
  else if code = 10 then .radix sv57
  else .unrecognized

/-- The root table's base of an ATP: `PPN << 12` (R109). -/
def atpRoot (atp : Word) : Word := pageAddr (field atp 0 44)

/-- A PTE's V, R, W and X bits (R106, R107). -/
def pteV (pte : Word) : Bool := bit pte 0
def pteR (pte : Word) : Bool := bit pte 1
def pteW (pte : Word) : Bool := bit pte 2
def pteX (pte : Word) : Bool := bit pte 3

/-- A PTE's page number: bits 31:10 of a 4-byte PTE, bits 53:10 of an 8-byte one (R106, R107). -/
def ptePpn (r : Radix) (pte : Word) : Word :=
  if r.pteSize = 4 then (field pte 10 22).setWidth 64 else (field pte 10 44).setWidth 64

/-- The address a PTE's page number names. -/
def ptePage (r : Radix) (pte : Word) : Word := ptePpn r pte <<< 12

/-- The permission of a leaf's R and W bits (R215). -/
def Perm.ofBits (r w : Bool) : Perm :=
  match r, w with
  | false, false => .none
  | true, false => .r
  | false, true => .w
  | true, true => .rw

/-- R is in the permission. -/
def Perm.hasR : Perm → Bool
  | .none => false
  | .r => true
  | .w => false
  | .rw => true

/-- W is in the permission. -/
def Perm.hasW : Perm → Bool
  | .none => false
  | .r => false
  | .w => true
  | .rw => true

/-- The intersection of two permissions (R224, R226). -/
def Perm.inter (p q : Perm) : Perm := Perm.ofBits (p.hasR && q.hasR) (p.hasW && q.hasW)

/-- READ and RW need R (R222). -/
def Access.needsR : Access → Bool
  | .none => false
  | .read => true
  | .write => false
  | .rw => true

/-- WRITE and RW need W (R222). -/
def Access.needsW : Access → Bool
  | .none => false
  | .read => false
  | .write => true
  | .rw => true

/-! ### The fault record (R132 to R134, R371) -/

/-- The numeric code of a cause (R371, `CAUSE_CODE`, log 1). -/
def causeCode : Cause → BitVec 12
  | .readAddrMisaligned => 4
  | .readAccessFault => 5
  | .writeAddrMisaligned => 6
  | .writeAccessFault => 7
  | .pageFaultRead => 13
  | .pageFaultWrite => 15
  | .guestPageFaultRead => 21
  | .guestPageFaultWrite => 23
  | .dmaDisabled => 256
  | .ddtFault => 257
  | .ddtInvalid => 258
  | .ddtUnsupported => 259
  | .mrifFault => 264
  | .pdtFault => 265
  | .pdtInvalid => 266
  | .pdtUnsupported => 267

/-- The transaction type of a request: 3 for an untranslated write, 2 for an untranslated read (R134, R346). -/
def ttypOf : Access → BitVec 6
  | .none => 2
  | .read => 2
  | .write => 3
  | .rw => 3

/-- The `reason` word of a fault record (R133, R326). -/
def faultReason (did : Word) (cause : Cause) (ttyp : BitVec 6) : Word :=
  did <<< 40 ||| ttyp.setWidth 64 <<< 34 ||| (causeCode cause).setWidth 64

/-- The 32 bytes of a fault record (R132, R326). -/
def faultRecord (did : Word) (cause : Cause) (ttyp : BitVec 6) (iova phys : Word) : List Byte :=
  leBytes 8 (faultReason did cause ttyp).toNat ++ leBytes 8 0 ++ leBytes 8 iova.toNat ++ leBytes 8 phys.toNat

end Sys2Proof.Machine
end

