-- ==== Sys2Proof/Machine/Ops.lean ====
section
/-! DEFINITION. The named operations over memory, queues, the device-context cache and interrupts, and the block's
exceptions: the fault report (R328, R380) and the stop of a drain pass (R282, R284, R296, R375). -/

namespace Sys2Proof.Machine

/-! ### Guest memory (R70 to R78) -/

/-- The byte of a memory at an address. -/
def Memory.get : Memory → Nat → Byte
  | [], _ => Memory.unlisted
  | (a, b) :: m, x => if x = a then b else Memory.get m x

/-- A memory with one byte replaced, in canonical form when the memory was. -/
def Memory.put : Memory → Nat → Byte → Memory
  | [], x, v => if v = Memory.unlisted then [] else [(x, v)]
  | (a, b) :: m, x, v =>
    if x < a then (if v = Memory.unlisted then (a, b) :: m else (x, v) :: (a, b) :: m)
    else if x = a then (if v = Memory.unlisted then m else (x, v) :: m)
    else (a, b) :: Memory.put m x v

/-- The byte at a guest-physical address. -/
def readByte (m : Memory) (a : Word) : Byte := Memory.get m a.toNat

/-- A store of one byte. -/
def writeByte (m : Memory) (a : Word) (v : Byte) : Memory := Memory.put m a.toNat v

/-- The bytes from an address up; addresses are modulo 2^64 (R13, log 17). -/
def readBytes (m : Memory) (a : Word) : (n : Nat) → List Byte
  | 0 => []
  | n + 1 => readByte m a :: readBytes m (a + 1) n

/-- A store of bytes from an address up: byte `k` goes to `a + k` (R71). -/
def writeBytes (m : Memory) (a : Word) : List Byte → Memory
  | [] => m
  | b :: bs => writeBytes (writeByte m a b) (a + 1) bs

/-- An address lies in one of the ranges. -/
def inRanges (rs : List Range) (a : Word) : Bool := rs.any (fun r => decide (r.lo ≤ a.toNat) && decide (a.toNat ≤ r.hi))

/-- One of the `n` addresses from `a` up lies in one of the ranges. -/
def touches (rs : List Range) (a : Word) : (n : Nat) → Bool
  | 0 => false
  | n + 1 => inRanges rs a || touches rs (a + 1) n

/-- `MemRead(a, n)`: the bytes, or `none` where the host answers `Fail` (R12, R78, log 4). -/
def State.memRead (s : State) (a : Word) (n : Nat) : Option (List Byte) :=
  if touches s.noRead a n then none else some (readBytes s.mem a n)

/-- `MemRead` of one little-endian integer of at most 8 bytes. -/
def State.memReadWord (s : State) (a : Word) (n : Nat) : Option Word :=
  (s.memRead a n).map (fun bs => BitVec.ofNat 64 (leNat bs))

/-- `n` free bytes, the first of them draw number `d` (R78, log 5). -/
def freeBytes (d : Nat) : (n : Nat) → List Byte
  | 0 => []
  | n + 1 => Config.failedWriteByte d :: freeBytes (d + 1) n

/-- The state with bytes stored. -/
def State.store (s : State) (a : Word) (bs : List Byte) : State := { s with mem := writeBytes s.mem a bs }

/-- The state after a write that the host answered `Fail`: the bytes of the access are any value (R78, log 5). -/
def State.failedStore (s : State) (a : Word) (n : Nat) : State :=
  { s with mem := writeBytes s.mem a (freeBytes s.draws n), draws := s.draws + n }

/-- The host answers `Ok` to a write of `n` bytes at `a` (R12, log 4). -/
def State.writable (s : State) (a : Word) (n : Nat) : Bool := !touches s.noWrite a n

/-! ### Queues -/

/-- One queue of the block. -/
def State.queue (s : State) : QueueId → Queue
  | .cq => s.cq
  | .fq => s.fq
  | .pq => s.pq

/-- The block with one queue replaced. -/
def State.setQueue (s : State) (q : QueueId) (v : Queue) : State :=
  match q with
  | .cq => { s with cq := v }
  | .fq => { s with fq := v }
  | .pq => { s with pq := v }

/-- A queue's head index, masked (R31). -/
def Queue.head (q : Queue) : Word := q.qh.setWidth 64 &&& q.mask

/-- A queue's tail index, masked (R31). -/
def Queue.tail (q : Queue) : Word := q.qt.setWidth 64 &&& q.mask

/-- The index after `i`, wrapped to the queue's size (R24, R321). -/
def Queue.next (q : Queue) (i : Word) : Word := (i + 1) &&& q.mask

/-- The address of the slot a head index names: `base + index * 16` (R24, R118). -/
def commandSlot (q : Queue) (i : Word) : Word := q.base + i * 16

/-- The address of a fault record's slot: `base + index * 32` (R323). -/
def recordSlot (q : Queue) (i : Word) : Word := q.base + i * 32

/-! ### Responses and interrupts (R286, R325, R382, R383) -/

/-- The block hands something out. -/
def State.emit (s : State) (r : Response) : State := { s with outbox := r :: s.outbox }

/-- `Notify(vector)`: the sink gets the vector and the values of its MSI table entry (R38, R383); a vector of NUM_VECTORS or
more is a no-op (R37, R383). -/
def State.notify (s : State) (vector : Nat) : State :=
  if vector < s.cfg.numVectors.val then s.emit (.notify vector (s.msi.getD vector MsiEntry.reset)) else s

/-- The interrupt raise: the pending bit, then `Notify` if the queue is armed (R382). -/
def State.raiseInterrupt (s : State) (q : QueueId) : State :=
  let pending := { s with ipsr := withBit s.ipsr (pendingBit q) true }
  if (s.queue q).armed then pending.notify (vectorOf s.icvec q) else pending

/-! ### The end of a command and of a drain pass (R281 to R285) -/

/-- The end of a drain pass: the interrupt is raised however it ended (R285). -/
def State.endDrain (s : State) : State :=
  let ended := { s with cqDraining := false }
  if bit s.cq.csr irqEnableBit then ended.raiseInterrupt .cq else ended

/-- A command is done: the head advances, wrapping (R283). -/
def State.commandDone (s : State) : State :=
  { s with cq := { s.cq with qh := (s.cq.next s.cq.head).setWidth 32 } }

/-- The command queue's exception: CQ_FAULT or CQ_ERROR is set, the head stays, the pass ends (R282, R284, R296, R375). -/
def State.stopDrain (s : State) (statusBit : Nat) : State :=
  ({ s with cq := { s.cq with csr := withBit s.cq.csr statusBit true } } : State).endDrain

/-! ### The translation exception: the fault report (R320 to R332, R380)

The return from it is software's (R381): MMIO writes of FQH, IPSR and FQCSR (`Machine/RegFile.lean`). -/

/-- Set a status bit of FQCSR. -/
def State.setFqStatus (s : State) (statusBit : Nat) : State :=
  { s with fq := { s.fq with csr := withBit s.fq.csr statusBit true } }

/-- A record is in memory: the tail advances and the interrupt is raised if enabled (R324, R325). -/
def State.recordWritten (s : State) : State :=
  let advanced := { s with fq := { s.fq with qt := (s.fq.next s.fq.tail).setWidth 32 } }
  if bit s.fq.csr irqEnableBit then advanced.raiseInterrupt .fq else advanced

/-- `Report(did, cause, ttyp, iova, phys)` (R328): nothing while the queue is inactive or in a fault or full state; FQ_FULL
when the ring is full; FQ_FAULT when the write fails; else the record, the tail and the interrupt. -/
def State.report (s : State) (did : Word) (cause : Cause) (ttyp : BitVec 6) (iova phys : Word) : State :=
  if !recordAllowed s.fq.csr then s
  else if s.fq.next s.fq.tail = s.fq.head then s.setFqStatus fullBit
  else if s.writable (recordSlot s.fq s.fq.tail) 32 then
    (s.store (recordSlot s.fq s.fq.tail) (faultRecord did cause ttyp iova phys)).recordWritten
  else (s.failedStore (recordSlot s.fq s.fq.tail) 32).setFqStatus faultBit

/-! ### The device-context cache (R47, R48, R342) -/

/-- The entry of a device id, if it is present. -/
def DasCache.find : DasCache → Word → Option DasEntry
  | [], _ => none
  | e :: c, did => if did = e.did then some e else DasCache.find c did

/-- The cache with the entry of `e.did` created or replaced. -/
def DasCache.put : DasCache → DasEntry → DasCache
  | [], e => [e]
  | x :: c, e =>
    if e.did.toNat < x.did.toNat then e :: x :: c
    else if e.did = x.did then e :: c
    else x :: DasCache.put c e

/-- `InvalidateAllDC` (R291, R297). -/
def DasCache.invalidateAll (c : DasCache) : DasCache := c.map (fun e => { e with valid := false })

/-- One device's entry loses its flag; a device with no entry changes nothing (R297). -/
def DasCache.invalidate (c : DasCache) (did : Word) : DasCache :=
  c.map (fun e => if e.did = did then { e with valid := false } else e)

end Sys2Proof.Machine
end

