-- ==== Sys2Proof/Machine/Ats.lean ====
section
/-! DEFINITION. The ATS commands: "accepted but are no-ops" (R301, R302). -/

namespace Sys2Proof.Machine

/-- ATS.INVAL: no operand is read and no message is sent (R301). -/
def execAtsInval (_pid : BitVec 20) (_pv _dsv : Bool) (_rid : BitVec 16) (_dseg : BitVec 8) (_payload : Word)
    (s : State) : Host.Outcome State Fault Refusal := .next s.commandDone

/-- ATS.PRGR: no operand is read and no message is sent (R302). -/
def execAtsPrgr (_pid : BitVec 20) (_pv _dsv : Bool) (_rid : BitVec 16) (_dseg : BitVec 8) (_payload : Word)
    (s : State) : Host.Outcome State Fault Refusal := .next s.commandDone

end Sys2Proof.Machine
end

