-- ==== Sys2Proof/Machine/Iodir.lean ====
section
/-! DEFINITION. The IODIR commands (R297 to R300). Only IODIR.INV_DDT changes state. -/

namespace Sys2Proof.Machine

/-- IODIR.INV_DDT: with DV the flag of device DID is cleared, without DV every device's (R297). -/
def execIodirInvDdt (_pid : BitVec 20) (dv : Bool) (did : BitVec 24) (s : State) : Host.Outcome State Fault Refusal :=
  .next ({ s with das := if dv then s.das.invalidate (did.setWidth 64) else s.das.invalidateAll } : State).commandDone

/-- IODIR.PRE_DDT: no operand is read and nothing is prefetched (R298). -/
def execIodirPreDdt (_pid : BitVec 20) (_dv : Bool) (_did : BitVec 24) (s : State) : Host.Outcome State Fault Refusal :=
  .next s.commandDone

/-- IODIR.INV_PDT: no operand is read; the device's context stays cached (R299). -/
def execIodirInvPdt (_pid : BitVec 20) (_dv : Bool) (_did : BitVec 24) (s : State) : Host.Outcome State Fault Refusal :=
  .next s.commandDone

/-- IODIR.PRE_PDT: no operand is read (R300). -/
def execIodirPrePdt (_pid : BitVec 20) (_dv : Bool) (_did : BitVec 24) (s : State) : Host.Outcome State Fault Refusal :=
  .next s.commandDone

end Sys2Proof.Machine
end

