-- ==== Sys2Proof/Machine/Iofence.lean ====
section
/-! DEFINITION. The IOFENCE.C command (R296), the block's only fence (R89). -/

namespace Sys2Proof.Machine

/-- The completion address: `addr & ~0x3` (R126, R296). -/
def fenceAddr (addr : Word) : Word := addr &&& ~~~3

/-- IOFENCE.C: with AV, DATA is stored in 4 little-endian bytes; if the host fails the write, CQ_FAULT is set, the pass
ends and the head stays. Without AV the fence only orders. WSI, PR and PW are ignored (R126, R296). -/
def execIofenceC (av _wsi _pr _pw : Bool) (data : BitVec 32) (addr : Word) (s : State) :
    Host.Outcome State Fault Refusal :=
  if av then
    if s.writable (fenceAddr addr) 4 then .next (s.store (fenceAddr addr) (leBytes 4 data.toNat)).commandDone
    else .next ((s.failedStore (fenceAddr addr) 4).stopDrain faultBit)
  else .next s.commandDone

end Sys2Proof.Machine
end

