-- ==== Sys2Proof/Machine/Iotinval.lean ====
section
/-! DEFINITION. The IOTINVAL commands: "accepted but are no-ops (TLB-cache layer not implemented)" (R293 to R295). -/

namespace Sys2Proof.Machine

/-- IOTINVAL.VMA: no operand is read, the command is done (R293). -/
def execIotinvalVma (_av : Bool) (_pscid : BitVec 20) (_pscv _gv : Bool) (_gscid : BitVec 16) (_addr : BitVec 54)
    (s : State) : Host.Outcome State Fault Refusal := .next s.commandDone

/-- IOTINVAL.GVMA: no operand is read, the command is done (R294). -/
def execIotinvalGvma (_av : Bool) (_pscid : BitVec 20) (_pscv _gv : Bool) (_gscid : BitVec 16) (_addr : BitVec 54)
    (s : State) : Host.Outcome State Fault Refusal := .next s.commandDone

end Sys2Proof.Machine
end

