-- ==== Sys2Proof/Machine/Dispatch.lean ====
section
/-! DEFINITION. Dispatch by opcode (R303): one arm per command of spec/opcode_table.json. -/

namespace Sys2Proof.Machine

def exec (i : Instr) (s : State) : Host.Outcome State Fault Refusal :=
  match i with
  | .iotinvalVma av pscid pscv gv gscid addr => Sys2Proof.Machine.execIotinvalVma av pscid pscv gv gscid addr s
  | .iotinvalGvma av pscid pscv gv gscid addr => Sys2Proof.Machine.execIotinvalGvma av pscid pscv gv gscid addr s
  | .iofenceC av wsi pr pw data addr => Sys2Proof.Machine.execIofenceC av wsi pr pw data addr s
  | .iodirInvDdt pid dv did => Sys2Proof.Machine.execIodirInvDdt pid dv did s
  | .iodirPreDdt pid dv did => Sys2Proof.Machine.execIodirPreDdt pid dv did s
  | .iodirInvPdt pid dv did => Sys2Proof.Machine.execIodirInvPdt pid dv did s
  | .iodirPrePdt pid dv did => Sys2Proof.Machine.execIodirPrePdt pid dv did s
  | .atsInval pid pv dsv rid dseg payload => Sys2Proof.Machine.execAtsInval pid pv dsv rid dseg payload s
  | .atsPrgr pid pv dsv rid dseg payload => Sys2Proof.Machine.execAtsPrgr pid pv dsv rid dseg payload s

end Sys2Proof.Machine
end

