-- ==== Sys2Proof/Machine/Processor.lean ====
section
/-! DEFINITION. The Command Processor (44_command_processor.md): queue control changes, the drain pass, directory-pointer
changes, and the priority encoder that picks among them. -/

namespace Sys2Proof.Machine

/-! ### Queue control changes (R273 to R278) -/

/-- The enable transition: base and size are latched, the indices go to 0, the error bits are cleared, the queue is active
and its vector armed (R275). -/
def enabledQueue (q : QueueId) (v : Queue) : Queue :=
  { v with
    base := pageAddr (queuePpn v.qb)
    mask := queueMask v.qb
    qh := 0
    qt := 0
    csr := withBit (clearErrors q v.csr) activeBit true
    armed := true }

/-- The disable transition: the vector is disarmed and the queue inactive; all else is kept (R276). -/
def disabledQueue (v : Queue) : Queue := { v with csr := withBit v.csr activeBit false, armed := false }

/-- The transition that ENABLE asks for, none when ENABLE = ACTIVE (R273, R277). -/
def controlTransition (q : QueueId) (v : Queue) : Queue :=
  if bit v.csr enableBit && !bit v.csr activeBit then enabledQueue q v
  else if !bit v.csr enableBit && bit v.csr activeBit then disabledQueue v
  else v

/-- Clear BUSY, which ends every control change (R274). -/
def clearBusy (v : Queue) : Queue := { v with csr := withBit v.csr busyBit false }

/-- `CsrStep(Q)` (R273). -/
def State.csrStep (s : State) (q : QueueId) : State := s.setQueue q (clearBusy (controlTransition q (s.queue q)))

/-! ### Directory-pointer changes (R290 to R292) -/

/-- The directory modes proper. -/
def DdtMode.isDirectory : DdtMode → Bool
  | .off => false
  | .bare => false
  | .lvl1 => true
  | .lvl2 => true
  | .lvl3 => true

/-- The allowed transitions; a reserved code is never allowed (R290, R292). -/
def ddtTransitionOk (old : DdtMode) (new : Option DdtMode) : Bool :=
  match new with
  | none => false
  | some m => !old.isDirectory || !m.isDirectory

/-- `DdtpStep()` of an accepted request: a mode change invalidates every cache entry (R290, R291). -/
def State.adoptDdtp (s : State) (new : DdtMode) : State :=
  { s with
    das := if new ≠ s.ddtMode then s.das.invalidateAll else s.das
    ddtMode := new
    ddtBase := pageAddr (ddtpPpn s.ddtp)
    ddtp := withBit s.ddtp ddtpBusyBit false }

/-- `DdtpStep()` of a rejected request: the register shows the active mode and base again (R290). -/
def State.rejectDdtp (s : State) : State :=
  let restored := withField (withField s.ddtp 0 4 (ddtModeCode s.ddtMode)) 10 44 ((s.ddtBase >>> 12).setWidth 44)
  { s with ddtp := withBit restored ddtpBusyBit false }

/-- `DdtpStep()` (R290). -/
def State.ddtpStep (s : State) : State :=
  match ddtModeOfCode (ddtpMode s.ddtp) with
  | some m => if ddtTransitionOk s.ddtMode (some m) then s.adoptDdtp m else s.rejectDdtp
  | none => s.rejectDdtp

/-! ### The drain pass (R279 to R289) -/

/-- `StartDrain()` (R279). -/
def State.startDrain (s : State) : State :=
  { s with cqDoorbell := false, cqDraining := drainAllowed s.cq.csr || s.cqDraining }

/-- The 16 bytes of the command at the head, or `none` where the host fails the read (R281). -/
def State.fetchCommand (s : State) : Option (List Byte) := s.memRead (commandSlot s.cq s.cq.head) 16

/-- `DrainStep()` (R281): the end of the pass, a failed read, an illegal command, or one command executed. -/
def State.drainStep (s : State) : Host.Outcome State Fault Refusal :=
  if s.cq.head = s.cq.tail then .next s.endDrain
  else match s.fetchCommand with
    | none => .next (s.stopDrain faultBit)
    | some bytes => match decode bytes with
      | .error _ => .next (s.stopDrain errorBit)
      | .ok i => exec i s

/-! ### The priority encoder (R270 to R272) -/

/-- What the processor serves. -/
inductive Dispatch where
  | drain | startDrain | csr (q : QueueId) | ddtp
deriving DecidableEq, Repr

/-- The condition of each dispatch (R271). -/
def State.pending (s : State) : Dispatch → Bool
  | .drain => s.cqDraining
  | .startDrain => s.cqDoorbell
  | .csr q => bit (s.queue q).csr busyBit
  | .ddtp => bit s.ddtp ddtpBusyBit

/-- The priority order of R271, "as an explicit list". -/
def priorityOrder : List Dispatch := [.drain, .startDrain, .csr .cq, .csr .fq, .csr .pq, .ddtp]

/-- The condition the encoder picks: the first that holds; none when the processor is Idle (R270, R271). -/
def State.selected (s : State) : Option Dispatch := priorityOrder.find? s.pending

/-- The step of a dispatch (R272). -/
def State.serve (s : State) : Dispatch → Host.Outcome State Fault Refusal
  | .drain => s.drainStep
  | .startDrain => .next s.startDrain
  | .csr q => .next (s.csrStep q)
  | .ddtp => .next s.ddtpStep

/-- `ProcessorStep()` (R272). Idle has no step: nothing changes (R270, log 6). -/
def State.processorStep (s : State) : Host.Outcome State Fault Refusal :=
  match s.selected with
  | some d => s.serve d
  | none => .next s

end Sys2Proof.Machine
end

