-- ==== Sys2Proof/Machine/RegFile.lean ====
section
/-! DEFINITION. The MMIO register file: the register map and masks (R25 to R40), MMIO read and write with their side
effects (R150 to R160). -/

namespace Sys2Proof.Machine

/-- The registers of the map of R25; unassigned offsets and the PBA are no registers. -/
inductive Reg where
  | caps | ddtp
  | base (q : QueueId) | head (q : QueueId) | tail (q : QueueId) | csr (q : QueueId)
  | ipsr | icvec
  | msiAddr (v : Nat) | msiData (v : Nat) | msiCtrl (v : Nat)
deriving DecidableEq, Repr

/-- The byte offset of a register in the window (R25). -/
def Reg.offset : Reg → Nat
  | .caps => 0x000
  | .ddtp => 0x010
  | .base .cq => 0x018
  | .head .cq => 0x020
  | .tail .cq => 0x024
  | .base .fq => 0x028
  | .head .fq => 0x030
  | .tail .fq => 0x034
  | .base .pq => 0x038
  | .head .pq => 0x040
  | .tail .pq => 0x044
  | .csr .cq => 0x048
  | .csr .fq => 0x04C
  | .csr .pq => 0x050
  | .ipsr => 0x054
  | .icvec => 0x2F8
  | .msiAddr v => 0x300 + 16 * v
  | .msiData v => 0x308 + 16 * v
  | .msiCtrl v => 0x30C + 16 * v

/-- The width of a register in bytes (R25). -/
def Reg.width : Reg → Nat
  | .caps => 8
  | .ddtp => 8
  | .base _ => 8
  | .head _ => 4
  | .tail _ => 4
  | .csr _ => 4
  | .ipsr => 4
  | .icvec => 8
  | .msiAddr _ => 8
  | .msiData _ => 4
  | .msiCtrl _ => 4

/-- The read-only mask of a register (R27 to R38). -/
def Reg.ro : Reg → Word
  | .caps => 0xFFFFFFFFFFFFFFFF
  | .ddtp => 0xFFC00000000003F0
  | .base _ => 0xFFC00000000003E0
  | .head _ => 0
  | .tail _ => 0
  | .csr _ => 0xFFFFFFFC
  | .ipsr => 0xFFFFFFFF
  | .icvec => 0xFFFFFFFFFFFF0000
  | .msiAddr _ => 0xFF00000000000003
  | .msiData _ => 0
  | .msiCtrl _ => 0xFFFFFFFE

/-- The write-clear mask of a register (R33 to R36); every bit of it is also read-only (R153). -/
def Reg.wc : Reg → Word
  | .caps => 0
  | .ddtp => 0
  | .base _ => 0
  | .head _ => 0
  | .tail _ => 0
  | .csr .cq => 0x500
  | .csr .fq => 0x300
  | .csr .pq => 0x300
  | .ipsr => 0xF
  | .icvec => 0
  | .msiAddr _ => 0
  | .msiData _ => 0
  | .msiCtrl _ => 0

/-- The registers below the MSI configuration table, in the order of R25. -/
def fixedRegs : List Reg :=
  [.caps, .ddtp, .base .cq, .head .cq, .tail .cq, .base .fq, .head .fq, .tail .fq, .base .pq, .head .pq, .tail .pq,
    .csr .cq, .csr .fq, .csr .pq, .ipsr, .icvec]

/-- A window offset is one of the register's bytes. -/
def Reg.covers (r : Reg) (o : Nat) : Bool := decide (r.offset ≤ o) && decide (o < r.offset + r.width)

/-- The register of the MSI configuration table that byte `o` belongs to, for `o` in the table (R38). -/
def msiReg (o : Nat) : Reg :=
  let v := (o - 0x300) / 16
  let k := (o - 0x300) % 16
  if k < 8 then .msiAddr v else if k < 12 then .msiData v else .msiCtrl v

/-- The register that window byte `o` belongs to; none for the PBA, an unassigned offset, or a byte outside the window
(R25, R40). -/
def locate (cfg : Config) (o : Nat) : Option Reg :=
  if 0x300 ≤ o ∧ o < 0x300 + 16 * cfg.numVectors.val then some (msiReg o)
  else fixedRegs.find? (fun r => r.covers o)

/-- `x[NAME]`: a register's value, zero-extended to 64 bits (R12, R151). -/
def State.readReg (s : State) : Reg → Word
  | .caps => s.cfg.capsValue
  | .ddtp => s.ddtp
  | .base q => (s.queue q).qb
  | .head q => (s.queue q).qh.setWidth 64
  | .tail q => (s.queue q).qt.setWidth 64
  | .csr q => (s.queue q).csr.setWidth 64
  | .ipsr => s.ipsr.setWidth 64
  | .icvec => s.icvec
  | .msiAddr v => (s.msi.getD v MsiEntry.reset).addr
  | .msiData v => (s.msi.getD v MsiEntry.reset).data.setWidth 64
  | .msiCtrl v => (s.msi.getD v MsiEntry.reset).ctrl.setWidth 64

/-- `x[NAME] <- v`: a hardware update, which ignores the masks (R151). CAPS is a parameter and takes no update (R27). -/
def State.writeReg (s : State) (r : Reg) (v : Word) : State :=
  match r with
  | .caps => s
  | .ddtp => { s with ddtp := v }
  | .base q => s.setQueue q { s.queue q with qb := v }
  | .head q => s.setQueue q { s.queue q with qh := v.setWidth 32 }
  | .tail q => s.setQueue q { s.queue q with qt := v.setWidth 32 }
  | .csr q => s.setQueue q { s.queue q with csr := v.setWidth 32 }
  | .ipsr => { s with ipsr := v.setWidth 32 }
  | .icvec => { s with icvec := v }
  | .msiAddr i => { s with msi := s.msi.set i { s.msi.getD i MsiEntry.reset with addr := v } }
  | .msiData i => { s with msi := s.msi.set i { s.msi.getD i MsiEntry.reset with data := v.setWidth 32 } }
  | .msiCtrl i => { s with msi := s.msi.set i { s.msi.getD i MsiEntry.reset with ctrl := v.setWidth 32 } }

/-- The value of window byte `o` (R150): a register's byte, a byte of the PBA, or 0 (R39, R40). -/
def State.windowByte (s : State) (o : Nat) : Byte :=
  if 0x1000 ≤ o then 0
  else if 0x400 ≤ o ∧ o < 0x400 + pbaBytes s.cfg then s.pba.getD (o - 0x400) 0
  else match locate s.cfg o with
    | some r => byteOf (s.readReg r) (o - r.offset)
    | none => 0

/-- The bytes of an MMIO read, lowest offset first. -/
def State.windowBytes (s : State) (o : Nat) : (n : Nat) → List Byte
  | 0 => []
  | n + 1 => s.windowByte o :: s.windowBytes (o + 1) n

/-- MMIO read of `n` bytes at offset `a` (R150). It changes nothing (R79). -/
def State.mmioRead (s : State) (a n : Nat) : Word := BitVec.ofNat 64 (leNat (s.windowBytes a n))

/-- The masked read-modify-write of one byte: "`new = (old & ro) | (write_value & ~ro)`, then `& ~(write_value & wc)`"
(R152). -/
def maskedByte (old ro wc b : Byte) : Byte := ((old &&& ro) ||| (b &&& ~~~ro)) &&& ~~~(b &&& wc)

/-- A word with byte `k` replaced. -/
def withByte (v : Word) (k : Nat) (b : Byte) : Word := withField v (8 * k) 8 b

/-- The write of one window byte (R152). Bytes outside the window, of the PBA, or unassigned drop it (R39, R40, R154). -/
def State.writeWindowByte (s : State) (o : Nat) (b : Byte) : State :=
  match locate s.cfg o with
  | some r =>
    let k := o - r.offset
    let new := maskedByte (byteOf (s.readReg r) k) (byteOf r.ro k) (byteOf r.wc k) b
    s.writeReg r (withByte (s.readReg r) k new)
  | none => s

/-- The masked writes of an MMIO write, lowest byte first (R152). -/
def State.writeWindow (s : State) (o : Nat) : List Byte → State
  | [] => s
  | b :: bs => (s.writeWindowByte o b).writeWindow (o + 1) bs

/-- An access of `n` bytes at `a` covers at least one byte of the register (R155). -/
def Reg.overlaps (r : Reg) (a n : Nat) : Bool :=
  decide (0 < n) && decide (a < r.offset + r.width) && decide (r.offset < a + n)

/-- Set a register's BUSY bit if the access covers it (R44, R155). -/
def State.markBusy (s : State) (r : Reg) (i : Nat) (a n : Nat) : State :=
  if r.overlaps a n then s.writeReg r (withBit (s.readReg r) i true) else s

/-- The side effects of an MMIO write (R155). -/
def State.writeSideEffects (s : State) (a n : Nat) : State :=
  let s1 := s.markBusy .ddtp ddtpBusyBit a n
  let s2 := s1.markBusy (.csr .cq) busyBit a n
  let s3 := s2.markBusy (.csr .fq) busyBit a n
  let s4 := s3.markBusy (.csr .pq) busyBit a n
  if Reg.overlaps (.tail .cq) a n then { s4 with cqDoorbell := true } else s4

/-- MMIO write of the low `n` bytes of `v` at offset `a` (R152, R155). -/
def State.mmioWrite (s : State) (a n : Nat) (v : Word) : State :=
  (s.writeWindow a (leBytes n v.toNat)).writeSideEffects a n

/-- The access sizes the bus presents (R75, R157). -/
def mmioSizeOk (n : Nat) : Bool := n == 1 || n == 2 || n == 4 || n == 8

/-- One MMIO read of a client (R86, R150): the value goes back to it. -/
def performMmioRead (a n : Nat) (s : State) : Host.Outcome State Fault Refusal :=
  if mmioSizeOk n then .next (s.emit (.mmioData a n (s.mmioRead a n))) else .refused (.mmioSize n)

/-- One MMIO write of a client (R86, R152). -/
def performMmioWrite (a n : Nat) (v : Word) (s : State) : Host.Outcome State Fault Refusal :=
  if mmioSizeOk n then .next (s.mmioWrite a n v) else .refused (.mmioSize n)

end Sys2Proof.Machine
end

