-- ==== Sys2Proof/Machine/DirectoryWalk.lean ====
section
/-! DEFINITION. The directory-tree walker (41_directory_walk.md): its checks and addresses, used by the stepwise
translation, and the whole walk of R183 over a memory that does not change. -/

namespace Sys2Proof.Machine

/-- A fault raised inside a translation: its cause and its phys value (R12, R370). -/
structure XFault where
  cause : Cause
  phys : Word
deriving DecidableEq, Repr

/-- The address of the directory entry or Device Context of `did` in the table at `base`, `level` levels above the leaf
(R184, R186). -/
def directoryEntryAddr (cfg : Config) (did base : Word) (level : Nat) : Word :=
  base + directoryIndex cfg did level * BitVec.ofNat 64 (if level = 0 then dcStride cfg else 8)

/-- The check of an intermediate entry after its load: the next table's base, or the fault (R184, R185). -/
def checkDirectoryEntry (entry : Option Word) : Except XFault Word :=
  match entry with
  | none => .error ⟨.ddtFault, 0⟩
  | some e => if ddtEntryValid e then .ok (pageAddr (ddtEntryPpn e)) else .error ⟨.ddtInvalid, 0⟩

/-- The check of the Device Context after its load (R186, R187). -/
def checkDeviceContext (bytes : Option (List Byte)) : Except XFault DC :=
  match bytes with
  | none => .error ⟨.ddtFault, 0⟩
  | some bs => if (DC.ofBytes bs).isValid then .ok (DC.ofBytes bs) else .error ⟨.ddtInvalid, 0⟩

/-- The walk from a level down to the Device Context, on the memory of `s` (R183). -/
def State.walkDirectory (s : State) (did : Word) : (level : Nat) → (base : Word) → Except XFault DC
  | 0, base => checkDeviceContext (s.memRead (directoryEntryAddr s.cfg did base 0) (dcStride s.cfg))
  | level + 1, base =>
    match checkDirectoryEntry (s.memReadWord (directoryEntryAddr s.cfg did base (level + 1)) 8) with
    | .error f => .error f
    | .ok next => s.walkDirectory did level next

/-- `FetchDC(did)`, whole, with the mode and base it is given (R183). In OFF and BARE it "is never called" and would
fault DDT_UNSUPPORTED (R181). -/
def State.fetchDC (s : State) (mode : DdtMode) (root did : Word) : Except XFault DC :=
  match directoryDepth mode with
  | none => .error ⟨.ddtUnsupported, 0⟩
  | some d =>
    if didInRange s.cfg d did then s.walkDirectory did d root else .error ⟨.ddtInvalid, 0⟩

end Sys2Proof.Machine
end

