-- ==== Sys2Proof/Machine/MsiWindow.lean ====
section
/-! DEFINITION. The MSI window check (43_msi_window.md). -/

namespace Sys2Proof.Machine

/-- What the MSI check answers when it does not fault. -/
inductive MsiAnswer where
  /-- The translation ends here with this address, mask and permission (R255). -/
  | ok (pa mask : Word) (perm : Perm)
  /-- The page-table walk follows (R258). -/
  | fallThrough
deriving DecidableEq, Repr

/-- The access is in the device's MSI window (R250). -/
def inMsiWindow (dc : DC) (iova : Word) : Bool := iova >>> 12 &&& dc.msiAddrMask == dc.msiAddrPattern

/-- `MsiCheck(dc, iova, access)`, whole (R259). -/
def msiCheck (cfg : Config) (dc : DC) (iova : Word) (access : Access) : Except XFault MsiAnswer :=
  if !cfg.msiEnabled then .ok .fallThrough
  else if !inMsiWindow dc iova then .ok .fallThrough
  else if access ≠ .write then .error ⟨.mrifFault, 0⟩
  else if iova &&& 0xFFF ≠ 0 then .error ⟨.mrifFault, 0⟩
  else match dc.msiMode with
    | .off => .error ⟨.ddtInvalid, 0⟩
    | .bare => .ok (.ok iova 0xFFF .w)
    | .flat => .error ⟨.ddtUnsupported, 0⟩
    | .unrecognized => .error ⟨.ddtUnsupported, 0⟩

end Sys2Proof.Machine
end

