-- ==== Sys2Proof/Machine/PageWalk.lean ====
section
/-! DEFINITION. The page-table walker, its permission check and the stage chaining (42_page_table_walk.md): the pieces that
one PTE load takes, used by the stepwise translation, and the whole walk of R215 over a memory that does not change. -/

namespace Sys2Proof.Machine

/-- The result of a walk that succeeds (R226). -/
structure WalkResult where
  pa : Word
  mask : Word
  perm : Perm
deriving DecidableEq, Repr

/-- The widening of a pass: 2 index bits at the top level of a stage-two pass (R211). -/
def widening (stageOne : Bool) : Nat := if stageOne then 0 else 2

/-- The phys value of a fault raised inside a pass: 0 in stage one, the address translated in stage two (R211). -/
def passPhys (stageOne : Bool) (addr : Word) : Word := if stageOne then 0 else addr

/-- The number of index bits at a level (R214). -/
def levelIndexBits (r : Radix) (stageOne : Bool) (level : Nat) : Nat :=
  if level + 1 = r.levels then r.indexBits + widening stageOne else r.indexBits

/-- The index of an address at a level (R214). -/
def levelIndex (r : Radix) (stageOne : Bool) (addr : Word) (level : Nat) : Word :=
  addr >>> (12 + level * r.indexBits) &&& lowMask (levelIndexBits r stageOne level)

/-- The address of the PTE of a level in the table at `base` (R214, R216). -/
def pteAddr (r : Radix) (stageOne : Bool) (addr base : Word) (level : Nat) : Word :=
  base + levelIndex r stageOne addr level * BitVec.ofNat 64 r.pteSize

/-- The address fits the configuration's width (R213). -/
def addressFits (r : Radix) (stageOne : Bool) (addr : Word) : Bool :=
  addr >>> (r.levels * r.indexBits + 12 + widening stageOne) == 0

/-- The cause of a failing read permission in a pass (R222). -/
def readFaultCause (stageOne : Bool) : Cause := if stageOne then .guestPageFaultRead else .pageFaultRead

/-- The cause of a failing write permission in a pass (R222). -/
def writeFaultCause (stageOne : Bool) : Cause := if stageOne then .guestPageFaultWrite else .pageFaultWrite

/-- What a PTE says at its level. -/
inductive PteVerdict where
  /-- A non-leaf entry: the walk goes on in the table at `base` (R219). -/
  | descend (base : Word)
  /-- A leaf that grants the access: the address composed and its permission (R223). -/
  | leaf (pa : Word) (perm : Perm)
  /-- A fault of this cause. -/
  | fault (cause : Cause)
deriving DecidableEq, Repr

/-- The address a leaf at a level gives (R223). -/
def leafAddr (r : Radix) (addr pte : Word) (level : Nat) : Word :=
  ptePage r pte ||| (addr &&& lowMask (12 + level * r.indexBits))

/-- The checks of one PTE in the order of R227: load, V, non-leaf, reserved, alignment, read and write permission
(R216 to R223). -/
def checkPte (r : Radix) (stageOne : Bool) (addr : Word) (level : Nat) (access : Access)
    (loaded : Option Word) : PteVerdict :=
  match loaded with
  | none => .fault .pdtFault
  | some pte =>
    if !pteV pte then .fault .pdtInvalid
    else if !pteR pte && !pteW pte && !pteX pte then
      (if level = 0 then .fault .pdtInvalid else .descend (ptePage r pte))
    else if !pteR pte && pteW pte then .fault .pdtInvalid
    else if level ≠ 0 ∧ ptePpn r pte &&& lowMask (level * r.indexBits) ≠ 0 then .fault .pdtInvalid
    else if access.needsR && !pteR pte then .fault (readFaultCause stageOne)
    else if access.needsW && !pteW pte then .fault (writeFaultCause stageOne)
    else .leaf (leafAddr r addr pte level) (Perm.ofBits (pteR pte) (pteW pte))

/-- The levels of one pass from `level` down, on the memory of `s` (the loop of R215). -/
def State.walkLevels (s : State) (r : Radix) (stageOne : Bool) (addr : Word) (access : Access) :
    (level : Nat) → (base : Word) → Except XFault (Word × Perm)
  | level, base =>
    match checkPte r stageOne addr level access (s.memReadWord (pteAddr r stageOne addr base level) r.pteSize) with
    | .fault c => .error ⟨c, passPhys stageOne addr⟩
    | .leaf pa perm => .ok (pa, perm)
    | .descend next =>
      match level with
      | 0 => .error ⟨.pdtInvalid, passPhys stageOne addr⟩
      | l + 1 => s.walkLevels r stageOne addr access l next

/-- One pass of the walker, without chaining (R211 to R223). -/
def State.walkPass (s : State) (atp : Word) (stageOne : Bool) (addr : Word) (access : Access) :
    Except XFault WalkResult :=
  match atpMode atp with
  | .bare => .ok ⟨addr, BitVec.allOnes 64, .rw⟩
  | .unrecognized => .error ⟨.ddtUnsupported, passPhys stageOne addr⟩
  | .radix r =>
    if !addressFits r stageOne addr then .error ⟨.dmaDisabled, passPhys stageOne addr⟩
    else match s.walkLevels r stageOne addr access (r.levels - 1) (atpRoot atp) with
      | .error f => .error f
      | .ok (pa, perm) => .ok ⟨pa, 0xFFF, perm⟩

/-- `Walk(iova, gatp, satp, do_stage1, access)`, whole (R215): a stage-one leaf goes through stage two when gatp is not
BARE, a BARE root returns at once (R212, R224). -/
def State.walk (s : State) (iova gatp satp : Word) (doStage1 : Bool) (access : Access) : Except XFault WalkResult :=
  if !doStage1 then s.walkPass gatp false iova access
  else match atpMode satp with
    | .bare => .ok ⟨iova, BitVec.allOnes 64, .rw⟩
    | _ => match s.walkPass satp true iova access with
      | .error f => .error f
      | .ok one =>
        if atpMode gatp = .bare then .ok one
        else match s.walkPass gatp false one.pa access with
          | .error f => .error ⟨f.cause, one.pa⟩
          | .ok two => .ok ⟨two.pa, 0xFFF, one.perm.inter two.perm⟩

/-- What a walk waits for, or how it ended: the stepwise form of R215, one PTE load a step (R349). -/
inductive WalkProgress where
  | reading (pass : Pass)
  | ended (result : Except XFault WalkResult)
deriving DecidableEq, Repr

/-- The start of a pass: mode decode and width check, before any memory access (R212, R213). -/
def startPass (atp : Word) (stageOne : Bool) (addr : Word) (outer : Option Perm) : WalkProgress :=
  match atpMode atp with
  | .bare => .ended (.ok ⟨addr, BitVec.allOnes 64, .rw⟩)
  | .unrecognized => .ended (.error ⟨.ddtUnsupported, passPhys stageOne addr⟩)
  | .radix r =>
    if addressFits r stageOne addr then .reading ⟨stageOne, addr, r, r.levels - 1, atpRoot atp, outer⟩
    else .ended (.error ⟨.dmaDisabled, passPhys stageOne addr⟩)

/-- The start of a walk (R211, R344). -/
def startWalk (iova gatp satp : Word) (doStage1 : Bool) : WalkProgress :=
  if doStage1 then startPass satp true iova none else startPass gatp false iova none

/-- A leaf has been reached: stage two follows a stage-one leaf when gatp is not BARE (R224), else the walk ends
(R226). -/
def leafReached (gatp : Word) (p : Pass) (pa : Word) (perm : Perm) : WalkProgress :=
  if p.stageOne && atpMode gatp ≠ .bare then startPass gatp false pa (some perm)
  else .ended (.ok ⟨pa, 0xFFF, match p.outer with
    | none => perm
    | some one => one.inter perm⟩)

/-- One PTE load and its checks (R216 to R224). -/
def State.stepWalk (s : State) (gatp : Word) (access : Access) (p : Pass) : WalkProgress :=
  match checkPte p.radix p.stageOne p.addr p.level access
      (s.memReadWord (pteAddr p.radix p.stageOne p.addr p.base p.level) p.radix.pteSize) with
  | .fault c => .ended (.error ⟨c, passPhys p.stageOne p.addr⟩)
  | .descend next => .reading { p with level := p.level - 1, base := next }
  | .leaf pa perm => leafReached gatp p pa perm

end Sys2Proof.Machine
end

