-- ==== Sys2Proof/Machine/Translate.lean ====
section
/-! DEFINITION. The translate entry point (46_translate.md): as the sequence of atomic steps of R349, which is what the
machine does, and whole, as R350 writes it, for a translation that no other agent disturbs. -/

namespace Sys2Proof.Machine

/-- A denied access (R348). -/
def denied (iova : Word) : TranslateResult := { iova := iova, translatedAddr := 0, addrMask := 0, perm := .none }

/-- A granted access (R350). -/
def granted (iova pa mask : Word) (perm : Perm) : TranslateResult :=
  { iova := iova, translatedAddr := pa, addrMask := mask, perm := perm }

/-- A stage-one table is configured (R344). -/
def stageOneEnabled (dc : DC) : Bool := atpMode dc.satp ≠ .bare

/-- Where a translation stands after the local work that follows one of its accesses: it waits for its next atomic step,
or it has its result (R349). -/
inductive Progress where
  | wait (phase : Phase)
  | answer (result : TranslateResult)
deriving DecidableEq, Repr

/-- A fault raised before a Device Context is known is always reported (R347). -/
def faultNoContext (f : XFault) : Progress := .wait (.report f.cause f.phys)

/-- A fault raised with a Device Context is reported unless its DTF is set (R347); the access is denied either way
(R348). -/
def faultWithContext (dc : DC) (iova : Word) (f : XFault) : Progress :=
  if dc.disableFault then .answer (denied iova) else .wait (.report f.cause f.phys)

/-- What a walk's progress means for the translation it belongs to. -/
def ofWalk (dc : DC) (iova : Word) : WalkProgress → Progress
  | .reading p => .wait (.pteRead dc p)
  | .ended (.ok w) => .answer (granted iova w.pa w.mask w.perm)
  | .ended (.error f) => faultWithContext dc iova f

/-- The pipeline once the Device Context is known: PDTV, MSI window, then the walk up to its first load (R344, R345). -/
def withContext (cfg : Config) (dc : DC) (iova : Word) (access : Access) : Progress :=
  if dc.pdtv then faultWithContext dc iova ⟨.ddtUnsupported, 0⟩
  else match msiCheck cfg dc iova access with
    | .error f => faultWithContext dc iova f
    | .ok (.ok pa mask perm) => .answer (granted iova pa mask perm)
    | .ok .fallThrough => ofWalk dc iova (startWalk iova dc.gatp dc.satp (stageOneEnabled dc))

/-- The start of a directory walk: the depth and the range check, before any memory access (R181, R182). -/
def startDirectory (cfg : Config) (mode : DdtMode) (root did : Word) : Progress :=
  match directoryDepth mode with
  | none => faultNoContext ⟨.ddtUnsupported, 0⟩
  | some d => if didInRange cfg d did then .wait (.dirRead d root) else faultNoContext ⟨.ddtInvalid, 0⟩

/-- The cache with the entry of a device id present, created empty and not valid if it was absent (R47, R342). -/
def DasCache.touch (c : DasCache) (did : Word) : DasCache :=
  match c.find did with
  | some _ => c
  | none => c.put { did := did, dc := DC.zero, valid := false }

/-- The lookup of the cache: the context of a valid entry (R342). -/
def DasCache.hit (c : DasCache) (did : Word) : Option DC :=
  match c.find did with
  | some e => if e.valid then some e.dc else none
  | none => none

/-- "mark it cached": the write-back of a fetched context (R342). -/
def State.fillCache (s : State) (did : Word) (dc : DC) : State :=
  { s with das := s.das.put { did := did, dc := dc, valid := true } }

/-- The state after the lookup step of a directory mode: the entry exists (R342). -/
def State.touchCache (s : State) (did : Word) : State := { s with das := s.das.touch did }

/-- What the first step of a translation finds in a directory mode (R342, R344). -/
def State.lookup (s : State) (did iova : Word) (access : Access) : Progress :=
  match s.das.hit did with
  | some dc => withContext s.cfg dc iova access
  | none => startDirectory s.cfg s.ddtMode s.ddtBase did

/-- The first step of a translation, by directory mode: the sampling and the cache lookup (R341, R349). -/
def State.firstStep (s : State) (did iova : Word) (access : Access) : Progress × State :=
  match s.ddtMode with
  | .off => (faultNoContext ⟨.dmaDisabled, 0⟩, s)
  | .bare => (.answer (granted iova iova (BitVec.allOnes 64) .rw), s)
  | .lvl1 => (s.lookup did iova access, s.touchCache did)
  | .lvl2 => (s.lookup did iova access, s.touchCache did)
  | .lvl3 => (s.lookup did iova access, s.touchCache did)

/-- The translation request of a device (R137): it takes its first step, and either has its result at once or stays in
flight. -/
def State.beginTranslate (s : State) (did iova : Word) (access : Access) : State :=
  match s.firstStep did iova access with
  | (.answer r, s') => { s' with nextTag := s.nextTag + 1, outbox := .translated s.nextTag r :: s.outbox }
  | (.wait p, s') =>
    { s' with
      nextTag := s.nextTag + 1
      flights := s.flights ++ [⟨s.nextTag, did, iova, access, s.ddtMode, s.ddtBase, p⟩] }

/-- The atomic step that a flight's phase names, and where the flight then stands (R349). -/
def State.flightStep (s : State) (f : Flight) : Progress × State :=
  match f.phase with
  | .dirRead 0 base =>
    match checkDeviceContext (s.memRead (directoryEntryAddr s.cfg f.did base 0) (dcStride s.cfg)) with
    | .error e => (faultNoContext e, s)
    | .ok dc => (.wait (.fill dc), s)
  | .dirRead (level + 1) base =>
    match checkDirectoryEntry (s.memReadWord (directoryEntryAddr s.cfg f.did base (level + 1)) 8) with
    | .error e => (faultNoContext e, s)
    | .ok next => (.wait (.dirRead level next), s)
  | .fill dc => (withContext s.cfg dc f.iova f.access, s.fillCache f.did dc)
  | .pteRead dc p => (ofWalk dc f.iova (s.stepWalk dc.gatp f.access p), s)
  | .report cause phys => (.answer (denied f.iova), s.report f.did cause (ttypOf f.access) f.iova phys)

/-- The list of flights with one phase replaced. -/
def setPhase (fs : List Flight) (tag : Nat) (p : Phase) : List Flight :=
  fs.map (fun f => if f.tag = tag then { f with phase := p } else f)

/-- The list of flights without one. -/
def dropFlight (fs : List Flight) (tag : Nat) : List Flight := fs.filter (fun f => f.tag ≠ tag)

/-- The flight with a tag. -/
def findFlight (fs : List Flight) (tag : Nat) : Option Flight := fs.find? (fun f => f.tag == tag)

/-- A flight takes its next atomic step; a flight with its result leaves the list and hands the result out. -/
def State.advanceFlight (s : State) (f : Flight) : State :=
  match s.flightStep f with
  | (.wait p, s') => { s' with flights := setPhase s'.flights f.tag p }
  | (.answer r, s') => ({ s' with flights := dropFlight s'.flights f.tag } : State).emit (.translated f.tag r)

/-- The next step of the translation with this tag; none is in flight: no agent has this step, and nothing changes
(log 6). -/
def State.advance (s : State) (tag : Nat) : State :=
  match findFlight s.flights tag with
  | some f => s.advanceFlight f
  | none => s

/-! ### The translation whole (R350) -/

/-- `GetDC(did)` whole: a hit, or the walk and the fill (R342). -/
def State.getDC (s : State) (did : Word) : Except XFault DC × State :=
  match s.das.hit did with
  | some dc => (.ok dc, s.touchCache did)
  | none => match s.fetchDC s.ddtMode s.ddtBase did with
    | .error f => (.error f, s.touchCache did)
    | .ok dc => (.ok dc, (s.touchCache did).fillCache did dc)

/-- The pipeline after `GetDC`, whole (R344, R345). -/
def State.pipeline (s : State) (dc : DC) (iova : Word) (access : Access) : Except XFault WalkResult :=
  if dc.pdtv then .error ⟨.ddtUnsupported, 0⟩
  else match msiCheck s.cfg dc iova access with
    | .error f => .error f
    | .ok (.ok pa mask perm) => .ok ⟨pa, mask, perm⟩
    | .ok .fallThrough => s.walk iova dc.gatp dc.satp (stageOneEnabled dc) access

/-- The translation of a directory mode, whole (R344, R347, R348, R350). -/
def State.translateDirectory (s : State) (did iova : Word) (access : Access) : TranslateResult × State :=
  match s.getDC did with
  | (.error f, s1) => (denied iova, s1.report did f.cause (ttypOf access) iova f.phys)
  | (.ok dc, s1) =>
    match s1.pipeline dc iova access with
    | .ok w => (granted iova w.pa w.mask w.perm, s1)
    | .error f =>
      (denied iova, if dc.disableFault then s1 else s1.report did f.cause (ttypOf access) iova f.phys)

/-- `Translate(did, iova, access)`, whole (R350). -/
def State.translate (s : State) (did iova : Word) (access : Access) : TranslateResult × State :=
  match s.ddtMode with
  | .bare => (granted iova iova (BitVec.allOnes 64) .rw, s)
  | .off => (denied iova, s.report did .dmaDisabled (ttypOf access) iova 0)
  | .lvl1 => s.translateDirectory did iova access
  | .lvl2 => s.translateDirectory did iova access
  | .lvl3 => s.translateDirectory did iova access

end Sys2Proof.Machine
end

