-- ==== Sys2Proof/Machine/Agents.lean ====
section
/-! DEFINITION. The agents' atomic steps (R10, R86) and which of them moves next (log 6). -/

namespace Sys2Proof.Machine

/-- The atomic step an event names. -/
def State.perform (s : State) : Event → Host.Outcome State Fault Refusal
  | .mmioRead offset size => performMmioRead offset size s
  | .mmioWrite offset size value => performMmioWrite offset size value s
  | .translate did iova access => .next (s.beginTranslate did iova access)
  | .advance tag => .next (s.advance tag)
  | .processor => s.processorStep
  | .hostWrite addr bytes => .next (s.store addr bytes)
  | .hostNoRead ranges => .next { s with noRead := ranges }
  | .hostNoWrite ranges => .next { s with noWrite := ranges }
  | .hostPba index value => .next { s with pba := s.pba.set index value }

/-- The step when the agenda names none: the Command Processor if one of its conditions holds, else the oldest translation
in flight, else nothing changes (log 6). -/
def State.defaultStep (s : State) : Host.Outcome State Fault Refusal :=
  match s.selected with
  | some d => s.serve d
  | none => match s.flights with
    | f :: _ => .next (s.advanceFlight f)
    | [] => .next s

/-- One atomic step of the block and its surroundings. -/
def State.atomicStep (s : State) : Host.Outcome State Fault Refusal :=
  match s.agenda with
  | e :: rest => ({ s with agenda := rest } : State).perform e
  | [] => s.defaultStep

/-! ### Placing a command where the next step fetches it -/

/-- The ranges that leave the `n` bytes at `a` readable. -/
def clearRanges (rs : List Range) (a : Word) (n : Nat) : List Range := rs.filter (fun r => !touches [r] a n)

/-- The command queue in the middle of a pass with one command to run: active and without error (R280), the tail past the
head, and a mask under which head and tail differ. -/
def drainingQueue (q : Queue) : Queue :=
  let m := if q.mask = 0 then 1 else q.mask
  { q with
    mask := m
    csr := withBit (withBit (withBit q.csr activeBit true) faultBit false) errorBit false
    qt := ((q.qh.setWidth 64 + 1) &&& m).setWidth 32 }

/-- The state with 16 bytes of a command placed at the head of the command queue and a drain pass under way, so that the
next step fetches and runs them (log 13). -/
def State.placeCommand (s : State) (bytes : List Byte) : State :=
  let cq := drainingQueue s.cq
  let slot := commandSlot cq cq.head
  { s with
    cq := cq
    cqDraining := true
    agenda := []
    noRead := clearRanges s.noRead slot 16
    mem := writeBytes s.mem slot bytes }

end Sys2Proof.Machine
end

