-- ==== Sys2Proof/Machine/Step.lean ====
section
/-! DEFINITION. One step of the machine, and the placing of a command that the next step fetches. -/

namespace Sys2Proof.Machine

/-- One atomic step (R86). -/
def step (s : State) : Host.Outcome State Fault Refusal := s.atomicStep

/-- The state with the command whose bits are `w`, numbered as spec/opcode_table.json numbers them, stored where the next
step fetches (log 13). -/
def State.withFetchWord (s : State) (nbits w : Nat) : State := s.placeCommand (leBytes 16 (w % 2 ^ nbits))

end Sys2Proof.Machine
end

