-- ==== Sys2Proof/Safety.lean ====
section
/-! DEFINITION. What a reachable state satisfies, in the terms the statements use: one predicate per rule of the spec that
says what always holds. `State.Inv` is all of them. -/

namespace Sys2Proof.Machine

/-- A register of this block: those of the MSI table only for configured vectors (R25). -/
def Reg.Present (cfg : Config) : Reg → Prop
  | .caps => True
  | .ddtp => True
  | .base _ => True
  | .head _ => True
  | .tail _ => True
  | .csr _ => True
  | .ipsr => True
  | .icvec => True
  | .msiAddr v => v < cfg.numVectors.val
  | .msiData v => v < cfg.numVectors.val
  | .msiCtrl v => v < cfg.numVectors.val

/-- Guest memory and the device-context cache are in canonical form, so that equal contents are equal data (log 3). -/
structure State.Canonical (s : State) : Prop where
  mem : s.mem.wf
  das : s.das.wf

/-- The MSI table has NUM_VECTORS entries and the PBA ceil(NUM_VECTORS/8) bytes (R25, R38). -/
structure State.TablesSized (s : State) : Prop where
  msi : s.msi.length = s.cfg.numVectors.val
  pba : s.pba.length = pbaBytes s.cfg

/-- Every RO0 bit of 10_state.md reads 0 (R21, R28, R30, R33 to R38), and the bits no rule sets stay 0: PMIP and PIP
(R36), PQ_FAULT and PQ_FULL (R35). -/
structure State.ReservedZero (s : State) : Prop where
  ddtp : s.ddtp &&& 0xFFC00000000003E0 = 0
  bases : ∀ q, (s.queue q).qb &&& 0xFFC00000000003E0 = 0
  cqcsr : s.cq.csr &&& 0xFFFCFAFC = 0
  fqcsr : s.fq.csr &&& 0xFFFCFCFC = 0
  pqcsr : s.pq.csr &&& 0xFFFCFFFC = 0
  ipsr : s.ipsr &&& 0xFFFFFFFC = 0
  icvec : s.icvec &&& 0xFFFFFFFFFFFF0000 = 0
  msi : ∀ e ∈ s.msi, e.addr &&& 0xFF00000000000003 = 0 ∧ e.ctrl &&& 0xFFFFFFFE = 0

/-- A queue's latched base is page-aligned, its mask is 0 (before the first enable) or `2^k - 1` with `1 ≤ k ≤ 32`
(R32, R43), its vector is armed exactly while it is active (R46, R275, R276), and an active queue has been enabled. -/
structure Queue.Shaped (q : Queue) : Prop where
  base : ∃ ppn : BitVec 44, q.base = pageAddr ppn
  mask : q.mask = 0 ∨ ∃ k, 1 ≤ k ∧ k ≤ 32 ∧ q.mask = lowMask k
  armed : q.armed = bit q.csr activeBit
  active : bit q.csr activeBit = true → q.mask ≠ 0

/-- The three queues are well shaped. -/
structure State.QueuesShaped (s : State) : Prop where
  cq : s.cq.Shaped
  fq : s.fq.Shaped
  pq : s.pq.Shaped

/-- The active base is page-aligned, and while DDTP is not BUSY it shows the active mode and base (R29, R42). -/
structure State.DirectoryShown (s : State) : Prop where
  base : ∃ ppn : BitVec 44, s.ddtBase = pageAddr ppn
  mode : bit s.ddtp ddtpBusyBit = false → ddtModeOfCode (ddtpMode s.ddtp) = some s.ddtMode
  page : bit s.ddtp ddtpBusyBit = false → pageAddr (ddtpPpn s.ddtp) = s.ddtBase

/-- "A drain pass runs only while the queue is active and neither CQ_FAULT nor CQ_ERROR is set" (R280). -/
def State.DrainGuarded (s : State) : Prop := s.cqDraining = true → drainAllowed s.cq.csr = true

/-- A context that the walker returned: its V bit is set, and without MSI remapping bytes 32 to 63 are 0 (R187). -/
structure DC.Fetched (cfg : Config) (dc : DC) : Prop where
  valid : dc.isValid = true
  tail : cfg.msiEnabled = false → dc.msiptp = 0 ∧ dc.msiAddrMask = 0 ∧ dc.msiAddrPattern = 0 ∧ dc.reserved = 0

/-- The context that a flight's phase carries. -/
def Phase.context : Phase → Option DC
  | .dirRead _ _ => none
  | .fill dc => some dc
  | .pteRead dc _ => some dc
  | .report _ _ => none

/-- Every context in a valid cache entry or carried by a translation in flight is one that the walker returned
(R47, R187, R342). -/
structure State.ContextsFetched (s : State) : Prop where
  cached : ∀ e ∈ s.das, e.valid = true → e.dc.Fetched s.cfg
  carried : ∀ f ∈ s.flights, ∀ dc, f.phase.context = some dc → dc.Fetched s.cfg

/-- The tags of the results handed out. -/
def answeredTags (out : List Response) : List Nat :=
  out.filterMap fun
    | .translated tag _ => some tag
    | .mmioData _ _ _ => none
    | .notify _ _ => none

/-- Every translation request is either in flight or has exactly one result: none has two, and none is dropped without one
(R349, R350). The tags that name the requests, counted up from 0, are the model's (log 11). -/
structure State.AnsweredOnce (s : State) : Prop where
  nodup : (s.flights.map Flight.tag ++ answeredTags s.outbox).Nodup
  below : ∀ tag ∈ s.flights.map Flight.tag ++ answeredTags s.outbox, tag < s.nextTag
  kept : ∀ tag < s.nextTag, tag ∈ s.flights.map Flight.tag ++ answeredTags s.outbox

/-- Only configured vectors are notified (R37, R383). -/
def State.NotifiesConfigured (s : State) : Prop :=
  ∀ v e, Response.notify v e ∈ s.outbox → v < s.cfg.numVectors.val

/-- What holds of every state that the machine reaches from reset. -/
structure State.Inv (s : State) : Prop where
  canonical : s.Canonical
  tables : s.TablesSized
  reserved : s.ReservedZero
  queues : s.QueuesShaped
  directory : s.DirectoryShown
  drain : s.DrainGuarded
  contexts : s.ContextsFetched
  answered : s.AnsweredOnce
  notifies : s.NotifiesConfigured

end Sys2Proof.Machine
end

