-- ==== Sys2Proof/Certificates/Slice0/Obligations.lean ====
section
/-! DEFINITION. The statements for the provers. `Sys2Proof.Claims` holds the terms they share; each statement is one
`def Obligations.<Name> : Prop`. -/

namespace Sys2Proof.Claims

open Sys2Proof.Machine

/-- The head index of the command queue, masked (R281). -/
def headIndex (s : State) : Word := s.cq.qh.setWidth 64 &&& s.cq.mask

/-- The tail index of the command queue, masked (R281). -/
def tailIndex (s : State) : Word := s.cq.qt.setWidth 64 &&& s.cq.mask

/-- The state in which CQH is `(h + 1) & s.cq_mask` and all else is as before (R283). -/
def headAdvanced (s : State) : State :=
  { s with cq := { s.cq with qh := ((headIndex s + 1) &&& s.cq.mask).setWidth 32 } }

/-- What the outside gets when a queue raises its interrupt: one notification of its vector, if the queue is armed and the
vector is configured (R382, R383). That the notification carries the vector's table entry as it is at the raise is the
model's DESIGN CHOICE (log 7): R383 hands over the vector number, and the sink reads the table. -/
def notification (s : State) (armed : Bool) (vector : Nat) : List Response :=
  if armed = true ∧ vector < s.cfg.numVectors.val then [.notify vector (s.msi.getD vector MsiEntry.reset)] else []

/-- The state after the end of a drain pass (R285, R286): not draining and, with IRQ_ENABLE, CIP set and CIV notified (with
the table entry of log 7). -/
def passEnded (s : State) : State :=
  { s with
    cqDraining := false
    ipsr := if s.cq.csr.getLsbD 1 then s.ipsr ||| 1 else s.ipsr
    outbox := (if s.cq.csr.getLsbD 1 then notification s s.cq.armed (s.icvec.extractLsb' 0 4).toNat else []) ++ s.outbox }

/-- The state with a bit of CQCSR set. -/
def cqStatusSet (s : State) (mask : Reg32) : State := { s with cq := { s.cq with csr := s.cq.csr ||| mask } }

/-- The state with a bit of FQCSR set. -/
def fqStatusSet (s : State) (mask : Reg32) : State := { s with fq := { s.fq with csr := s.fq.csr ||| mask } }

/-- Address `x` is none of the `n` bytes from `a` up. -/
def OutsideBytes (a : Word) (n : Nat) (x : Word) : Prop := ∀ k < n, x ≠ a + BitVec.ofNat 64 k

/-- The nine codes of R121. -/
def commandCodes : List (BitVec 10) := [0x001, 0x081, 0x002, 0x003, 0x083, 0x103, 0x183, 0x004, 0x084]

/-- The bits of the request word that are opcode or operand bits of a command (R119, R122, R124, R126, R127). -/
def requestBits : Instr → Word
  | .iotinvalVma _ _ _ _ _ _ => 0x0FFFF003FFFFF7FF
  | .iotinvalGvma _ _ _ _ _ _ => 0x0FFFF003FFFFF7FF
  | .iofenceC _ _ _ _ _ _ => 0xFFFFFFFF00003FFF
  | .iodirInvDdt _ _ _ => 0xFFFFFF02FFFFF3FF
  | .iodirPreDdt _ _ _ => 0xFFFFFF02FFFFF3FF
  | .iodirInvPdt _ _ _ => 0xFFFFFF02FFFFF3FF
  | .iodirPrePdt _ _ _ => 0xFFFFFF02FFFFF3FF
  | .atsInval _ _ _ _ _ _ => 0xFFFFFF03FFFFF3FF
  | .atsPrgr _ _ _ _ _ _ => 0xFFFFFF03FFFFF3FF

/-- The bits of the address word that are operand bits of a command (R122, R124, R126, R127). -/
def addressBits : Instr → Word
  | .iotinvalVma _ _ _ _ _ _ => 0xFFFFFFFFFFFFFC00
  | .iotinvalGvma _ _ _ _ _ _ => 0xFFFFFFFFFFFFFC00
  | .iofenceC _ _ _ _ _ _ => 0xFFFFFFFFFFFFFFFC
  | .iodirInvDdt _ _ _ => 0
  | .iodirPreDdt _ _ _ => 0
  | .iodirInvPdt _ _ _ => 0
  | .iodirPrePdt _ _ _ => 0
  | .atsInval _ _ _ _ _ _ => 0xFFFFFFFFFFFFFFFF
  | .atsPrgr _ _ _ _ _ _ => 0xFFFFFFFFFFFFFFFF

/-- The address a command stores 4 bytes to, if it stores (R296). -/
def storeAddress : Instr → Option Word
  | .iotinvalVma _ _ _ _ _ _ => none
  | .iotinvalGvma _ _ _ _ _ _ => none
  | .iofenceC av _ _ _ _ addr => if av then some (addr &&& 0xFFFFFFFFFFFFFFFC) else none
  | .iodirInvDdt _ _ _ => none
  | .iodirPreDdt _ _ _ => none
  | .iodirInvPdt _ _ _ => none
  | .iodirPrePdt _ _ _ => none
  | .atsInval _ _ _ _ _ _ => none
  | .atsPrgr _ _ _ _ _ _ => none

/-- The BUSY bit that a write to the register sets, as a mask (R155). -/
def busyMask : Reg → Word
  | .caps => 0
  | .ddtp => 0x10
  | .base _ => 0
  | .head _ => 0
  | .tail _ => 0
  | .csr _ => 0x20000
  | .ipsr => 0
  | .icvec => 0
  | .msiAddr _ => 0
  | .msiData _ => 0
  | .msiCtrl _ => 0

/-- The access `[a, a+n)` covers a byte of the register (R155). -/
def Touches (r : Reg) (a n : Nat) : Prop := ∃ o, a ≤ o ∧ o < a + n ∧ r.offset ≤ o ∧ o < r.offset + r.width

/-- `n` steps of the Command Processor, while it answers next states. -/
def processorSteps : Nat → State → Option State
  | 0, s => some s
  | n + 1, s => match s.processorStep with
    | .next t => processorSteps n t
    | .fault _ => none
    | .refused _ => none

/-- The command in slot `i` of the command queue (R24, R118). -/
def commandAt (s : State) (i : Word) : Option Instr :=
  match s.memRead (s.cq.base + (i &&& s.cq.mask) * 16) 16 with
  | some bytes => match decode bytes with
    | .ok c => some c
    | .error _ => none
  | none => none

/-- `n` reports of one fault. -/
def reports (did : Word) (c : Cause) (ttyp : BitVec 6) (iova phys : Word) : Nat → State → State
  | 0, s => s
  | n + 1, s => reports did c ttyp iova phys n (s.report did c ttyp iova phys)

/-- The translation with a tag advances `n` times and no other agent moves. -/
def advances (tag : Nat) : Nat → State → State
  | 0, s => s
  | n + 1, s => advances tag n (s.advance tag)

end Sys2Proof.Claims

open Sys2Proof Sys2Proof.Machine Sys2Proof.Claims

/-! ### Encoding -/

/-- No bit of an encoding is dropped: decoding the 16 bytes of a well-formed command gives it back (R118 to R127, R131). -/
def Obligations.DecodeOfEncodeIsIdentity : Prop :=
  ∀ i : Instr, i.wellFormed = true → decode (encodeBytes i) = .ok i

/-- Encoding what was decoded keeps every opcode and operand bit of the two words and clears the reserved ones: the decoder
reads no reserved bit and reads each operand bit once (R120, R122, R124, R126, R127, R129). -/
def Obligations.EncodeOfDecodeKeepsOperandBits : Prop :=
  ∀ (req addr : Word) (i : Instr), decodeWords req addr = .ok i →
    i.wellFormed = true ∧ encode i = (req &&& requestBits i, addr &&& addressBits i)

/-- Exactly the nine codes of R121 are commands, whatever the other bits hold, and a command is 16 bytes (R128 to R131). -/
def Obligations.DecoderAcceptsExactlyTheNineCodes : Prop :=
  (∀ req addr : Word, (∃ i, decodeWords req addr = .ok i) ↔ req.extractLsb' 0 10 ∈ commandCodes) ∧
  (∀ (bytes : List Byte) (i : Instr), decode bytes = .ok i → bytes.length = 16)

/-- Words written out from the encoding tables decode to the commands they stand for (R122, R124, R126, R127, and the
examples of R296, R297). -/
def Obligations.SpecCommandWordsDecode : Prop :=
  decodeWords 0xCAFEF00D00000402 0x80020000 = .ok (.iofenceC true false false false 0xCAFEF00D 0x80020000) ∧
  decodeWords 0x0000100200000003 0 = .ok (.iodirInvDdt 0 true 0x10) ∧
  decodeWords 0x0000500300007401 0xC00 = .ok (.iotinvalVma true 7 true true 5 3) ∧
  decodeWords 0xAB12340200009084 0x55 = .ok (.atsPrgr 9 false true 0x1234 0xAB 0x55)

/-! ### The step and the drain pass -/

/-- In a drain pass with a command waiting, the step of the machine is `exec` of the command that the head slot's bytes
decode to; nothing is added around it but that the agenda's move is used up (R281, R303; the agenda is the model's, log 6). -/
def Obligations.StepRunsDecodedCommand : Prop :=
  ∀ (s : State) (bytes : List Byte) (i : Instr),
    s.cqDraining = true → headIndex s ≠ tailIndex s →
    s.memRead (s.cq.base + headIndex s * 16) 16 = some bytes → decode bytes = .ok i →
    (s.agenda = [] → step s = exec i s) ∧
    (∀ rest, s.agenda = .processor :: rest → step s = exec i { s with agenda := rest })

/-- The command that `withFetchWord` places is the one the next step runs, in every configuration after reset (the
model's own placing, log 13). -/
def Obligations.PlacedCommandIsRunNext : Prop :=
  ∀ (cfg : Config) (i : Instr), i.wellFormed = true →
    step ((State.resetWith cfg).withFetchWord 128 (leNat (encodeBytes i))) =
      exec i ((State.resetWith cfg).withFetchWord 128 (leNat (encodeBytes i)))

/-- An unrecognized opcode sets CQ_ERROR, ends the pass with its interrupt, and leaves the head (R128, R284, R285, R286;
the table entry that its notification carries is the model's choice, log 7). -/
def Obligations.IllegalCommandStopsThePass : Prop :=
  ∀ (s : State) (bytes : List Byte),
    s.cqDraining = true → headIndex s ≠ tailIndex s →
    s.memRead (s.cq.base + headIndex s * 16) 16 = some bytes →
    (wordOf bytes).extractLsb' 0 10 ∉ commandCodes →
    s.processorStep = .next (passEnded (cqStatusSet s 0x400))

/-- A failed command read sets CQ_FAULT, ends the pass with its interrupt, and leaves the head (R282, R285, R286; the table
entry that its notification carries is the model's choice, log 7). -/
def Obligations.FailedCommandReadStopsThePass : Prop :=
  ∀ s : State,
    s.cqDraining = true → headIndex s ≠ tailIndex s →
    s.memRead (s.cq.base + headIndex s * 16) 16 = none →
    s.processorStep = .next (passEnded (cqStatusSet s 0x100))

/-- When head equals tail the pass ends, with the interrupt if IRQ_ENABLE is set (R281, R285, R286; the table entry that its
notification carries is the model's choice, log 7). -/
def Obligations.EmptyQueueEndsThePass : Prop :=
  ∀ s : State, s.cqDraining = true → headIndex s = tailIndex s → s.processorStep = .next (passEnded s)

/-- A doorbell is consumed, and starts a pass exactly on an active queue without fault or error (R279). -/
def Obligations.DoorbellStartsAPassOrIsConsumed : Prop :=
  ∀ s : State, s.cqDraining = false → s.cqDoorbell = true →
    s.processorStep = .next
      { s with
        cqDoorbell := false
        cqDraining := s.cq.csr.getLsbD 16 && !s.cq.csr.getLsbD 8 && !s.cq.csr.getLsbD 10 }

/-- The priority encoder: draining, doorbell, CQCSR, FQCSR, PQCSR, DDTP (R271, R272). Idle has no step in the spec (R270); that
a processor step taken while Idle changes nothing is the model's choice (log 6). -/
def Obligations.PriorityEncoderOrder : Prop :=
  ∀ s : State, s.processorStep =
    if s.cqDraining = true then s.drainStep
    else if s.cqDoorbell = true then .next s.startDrain
    else if s.cq.csr.getLsbD 17 = true then .next (s.csrStep .cq)
    else if s.fq.csr.getLsbD 17 = true then .next (s.csrStep .fq)
    else if s.pq.csr.getLsbD 17 = true then .next (s.csrStep .pq)
    else if s.ddtp.getLsbD 4 = true then .next s.ddtpStep
    else .next s

/-- While a pass runs, no control change and no directory change is served: a disable of the queue, and every other pending
request, waits for the end of the pass (R271, R305). -/
def Obligations.PassRunsAheadOfControlChanges : Prop :=
  ∀ s t : State, s.cqDraining = true → s.processorStep = .next t →
    t.ddtp = s.ddtp ∧ t.ddtMode = s.ddtMode ∧ t.ddtBase = s.ddtBase ∧ t.fq = s.fq ∧ t.pq = s.pq ∧
    t.cqDoorbell = s.cqDoorbell ∧
    t.cq = { s.cq with qh := t.cq.qh, csr := t.cq.csr } ∧
    t.cq.csr &&& 0x30003 = s.cq.csr &&& 0x30003

/-- Whatever software writes to CQH, the drain step loads its command from a slot of the queue, never from past
`base + mask*16`, so that no byte of memory outside the queue's slots can change which command is fetched, and the head that
a done command writes wraps at the queue's size (R281, R283, R287); the premise is the shape that every reachable queue
has. -/
def Obligations.CommandFetchStaysInTheQueue : Prop :=
  ∀ s : State, s.cq.Shaped →
    s.fetchCommand = s.memRead (commandSlot s.cq s.cq.head) 16 ∧
    s.cq.base.toNat ≤ (commandSlot s.cq s.cq.head).toNat ∧
    (commandSlot s.cq s.cq.head).toNat ≤ s.cq.base.toNat + s.cq.mask.toNat * 16 ∧
    (∀ m : Memory,
      (∀ x : Word, s.cq.base.toNat ≤ x.toNat → x.toNat < s.cq.base.toNat + (s.cq.mask.toNat + 1) * 16 →
        readByte m x = readByte s.mem x) →
      ({ s with mem := m } : State).fetchCommand = s.fetchCommand) ∧
    s.commandDone.cq.qh.toNat = (s.cq.qh.toNat + 1) % (s.cq.mask.toNat + 1)

/-- A drain pass of `n` commands that all succeed and store nothing takes `n + 2` processor steps and no fewer, and ends with
the head at the tail (R420); an IOFENCE.C with AV is left out, since its store may rewrite a later slot. -/
def Obligations.DrainPassTakesNPlusTwoSteps : Prop :=
  ∀ (s : State) (n : Nat),
    s.cq.Shaped → s.cqDraining = false → s.cqDoorbell = true →
    s.cq.csr.getLsbD 16 = true → s.cq.csr.getLsbD 8 = false → s.cq.csr.getLsbD 10 = false →
    ((tailIndex s - headIndex s) &&& s.cq.mask).toNat = n →
    (∀ j < n, ∃ c, commandAt s (headIndex s + BitVec.ofNat 64 j) = some c ∧ storeAddress c = none) →
    (∃ t, processorSteps (n + 2) s = some t ∧ t.cqDraining = false ∧ headIndex t = tailIndex s ∧
      tailIndex t = tailIndex s ∧ t.cq.csr = s.cq.csr ∧ t.mem = s.mem) ∧
    (∀ m, 1 ≤ m → m ≤ n + 1 → ∃ t, processorSteps m s = some t ∧ t.cqDraining = true)

/-! ### The commands -/

/-- The commands that have no effect, and an IOFENCE.C without AV, complete in every state with every operand: the head
advances and nothing else changes (R283, R293, R294, R296, R298 to R302). -/
def Obligations.NoEffectCommandsOnlyAdvanceTheHead : Prop :=
  ∀ s : State,
    (∀ av pscid pscv gv gscid addr, exec (.iotinvalVma av pscid pscv gv gscid addr) s = .next (headAdvanced s)) ∧
    (∀ av pscid pscv gv gscid addr, exec (.iotinvalGvma av pscid pscv gv gscid addr) s = .next (headAdvanced s)) ∧
    (∀ wsi pr pw data addr, exec (.iofenceC false wsi pr pw data addr) s = .next (headAdvanced s)) ∧
    (∀ pid dv did, exec (.iodirPreDdt pid dv did) s = .next (headAdvanced s)) ∧
    (∀ pid dv did, exec (.iodirInvPdt pid dv did) s = .next (headAdvanced s)) ∧
    (∀ pid dv did, exec (.iodirPrePdt pid dv did) s = .next (headAdvanced s)) ∧
    (∀ pid pv dsv rid dseg payload, exec (.atsInval pid pv dsv rid dseg payload) s = .next (headAdvanced s)) ∧
    (∀ pid pv dsv rid dseg payload, exec (.atsPrgr pid pv dsv rid dseg payload) s = .next (headAdvanced s))

/-- IODIR.INV_DDT completes in every state: it clears the flag of every entry (DV = 0) or of device DID's (DV = 1), keeps
every context and every other entry, and advances the head (R297). -/
def Obligations.InvDdtClearsValidFlags : Prop :=
  ∀ (s : State) (pid : BitVec 20) (dv : Bool) (did : BitVec 24),
    ∃ t, exec (.iodirInvDdt pid dv did) s = .next t ∧
      t = { headAdvanced s with das := t.das } ∧
      ∀ d : Word, t.das.find d =
        (s.das.find d).map (fun e => if dv = false ∨ d = did.setWidth 64 then { e with valid := false } else e)

/-- A second IODIR.INV_DDT of the same operands changes nothing but the head: the cache is the same list (R297). -/
def Obligations.InvDdtTwiceEqualsOnce : Prop :=
  ∀ (s t : State) (pid : BitVec 20) (dv : Bool) (did : BitVec 24),
    exec (.iodirInvDdt pid dv did) s = .next t → exec (.iodirInvDdt pid dv did) t = .next (headAdvanced t)

/-- IOFENCE.C with AV completes when the host takes the write: DATA stands little-endian at `addr & ~0x3`, the head
advances, and every other byte and all else is as before (R126, R296). -/
def Obligations.FenceWritesItsCompletionData : Prop :=
  ∀ (s : State) (wsi pr pw : Bool) (data : BitVec 32) (addr : Word),
    s.mem.wf → touches s.noWrite (addr &&& 0xFFFFFFFFFFFFFFFC) 4 = false →
    ∃ t, exec (.iofenceC true wsi pr pw data addr) s = .next t ∧
      t = { headAdvanced s with mem := t.mem } ∧
      readBytes t.mem (addr &&& 0xFFFFFFFFFFFFFFFC) 4 =
        [data.extractLsb' 0 8, data.extractLsb' 8 8, data.extractLsb' 16 8, data.extractLsb' 24 8] ∧
      ∀ x, OutsideBytes (addr &&& 0xFFFFFFFFFFFFFFFC) 4 x → readByte t.mem x = readByte s.mem x

/-- IOFENCE.C with AV, when the host fails the write: CQ_FAULT, the pass ends with its interrupt, the head stays, and only
the 4 bytes of the write may have changed, to any value (R78, R281, R285, R286, R296; the bytes are free values, log 5; the
table entry that the notification carries is the model's choice, log 7). -/
def Obligations.FenceWriteFailureStopsThePass : Prop :=
  ∀ (s : State) (wsi pr pw : Bool) (data : BitVec 32) (addr : Word),
    touches s.noWrite (addr &&& 0xFFFFFFFFFFFFFFFC) 4 = true →
    ∃ t, exec (.iofenceC true wsi pr pw data addr) s = .next t ∧
      t = { passEnded (cqStatusSet s 0x100) with mem := t.mem, draws := t.draws } ∧
      ∀ x, OutsideBytes (addr &&& 0xFFFFFFFFFFFFFFFC) 4 x → readByte t.mem x = readByte s.mem x

/-- The frame of every command: only CQH, CQCSR.CQ_FAULT, IPSR.CIP, the drain flag, the cache (by IODIR.INV_DDT alone),
guest memory and the outbox can change (R293 to R302, R281). -/
def Obligations.CommandFrame : Prop :=
  ∀ (i : Instr) (s t : State), exec i s = .next t →
    t = { s with
      cq := { s.cq with qh := t.cq.qh, csr := t.cq.csr }
      ipsr := t.ipsr
      cqDraining := t.cqDraining
      das := t.das
      mem := t.mem
      draws := t.draws
      outbox := t.outbox } ∧
    (t.cq.qh = s.cq.qh ∨ t.cq.qh = (headAdvanced s).cq.qh) ∧
    (t.cq.csr = s.cq.csr ∨ t.cq.csr = s.cq.csr ||| 0x100) ∧
    (t.ipsr = s.ipsr ∨ t.ipsr = s.ipsr ||| 1) ∧
    ((∀ pid dv did, i ≠ .iodirInvDdt pid dv did) → t.das = s.das)

/-- A command changes no byte of guest memory but the 4 that an IOFENCE.C with AV stores to (R88, R296). -/
def Obligations.CommandMemoryFrame : Prop :=
  ∀ (i : Instr) (s t : State) (x : Word), exec i s = .next t →
    (∀ a, storeAddress i = some a → OutsideBytes a 4 x) → readByte t.mem x = readByte s.mem x

/-- Commands change nothing of the directory mode and base, of the translations in flight and of the cached contexts, and set
no valid flag (R304). Guest memory, which translations read too (R340), is CommandMemoryFrame's. -/
def Obligations.CommandsKeepDirectoryAndContexts : Prop :=
  ∀ (i : Instr) (s t : State), exec i s = .next t →
    t.ddtMode = s.ddtMode ∧ t.ddtBase = s.ddtBase ∧ t.flights = s.flights ∧
    (∀ d, (t.das.find d).map DasEntry.dc = (s.das.find d).map DasEntry.dc) ∧
    (∀ d dc, t.das.hit d = some dc → s.das.hit d = some dc)

/-! ### Queue control and the directory pointer -/

/-- The enable transition (R274, R275). -/
def Obligations.EnableTransition : Prop :=
  ∀ (s : State) (q : QueueId),
    (s.queue q).csr.getLsbD 0 = true → (s.queue q).csr.getLsbD 16 = false →
    s.csrStep q = s.setQueue q
      { s.queue q with
        base := ((s.queue q).qb.extractLsb' 10 44).setWidth 64 <<< 12
        mask := BitVec.ofNat 64 (2 ^ (((s.queue q).qb.extractLsb' 0 5).toNat + 1) - 1)
        qh := 0
        qt := 0
        csr := ((s.queue q).csr &&& ~~~(if q = .cq then 0x500 else 0x300) ||| 0x10000) &&& ~~~0x20000
        armed := true }

/-- The disable transition: the vector is disarmed and the queue inactive; indices, base, mask and error bits are kept
(R274, R276). -/
def Obligations.DisableTransition : Prop :=
  ∀ (s : State) (q : QueueId),
    (s.queue q).csr.getLsbD 0 = false → (s.queue q).csr.getLsbD 16 = true →
    s.csrStep q = s.setQueue q { s.queue q with csr := (s.queue q).csr &&& ~~~0x30000, armed := false }

/-- When ENABLE = ACTIVE the step only clears BUSY (R274, R277). -/
def Obligations.NoTransitionOnlyClearsBusy : Prop :=
  ∀ (s : State) (q : QueueId),
    (s.queue q).csr.getLsbD 0 = (s.queue q).csr.getLsbD 16 →
    s.csrStep q = s.setQueue q { s.queue q with csr := (s.queue q).csr &&& ~~~0x20000 }

/-- The transition table of R290 and R292: from OFF or BARE every defined mode is accepted, from a directory mode only OFF
and BARE; an accepted request is adopted, a rejected one is replaced in DDTP by the active mode and base; BUSY ends. -/
def Obligations.DdtpTransitionTable : Prop :=
  ∀ s : State,
    s.ddtpStep = { s with ddtp := s.ddtpStep.ddtp, ddtMode := s.ddtpStep.ddtMode, ddtBase := s.ddtpStep.ddtBase,
                          das := s.ddtpStep.das } ∧
    (let code := (s.ddtp.extractLsb' 0 4).toNat
     if code ≤ 1 ∨ code ≤ 4 ∧ (s.ddtMode = .off ∨ s.ddtMode = .bare) then
       (ddtModeCode s.ddtpStep.ddtMode).toNat = code ∧
       s.ddtpStep.ddtBase = (s.ddtp.extractLsb' 10 44).setWidth 64 <<< 12 ∧
       s.ddtpStep.ddtp = s.ddtp &&& ~~~0x10
     else
       s.ddtpStep.ddtMode = s.ddtMode ∧ s.ddtpStep.ddtBase = s.ddtBase ∧ s.ddtpStep.das = s.das ∧
       s.ddtpStep.ddtp.extractLsb' 0 4 = ddtModeCode s.ddtMode ∧
       s.ddtpStep.ddtp.extractLsb' 10 44 = (s.ddtBase >>> 12).setWidth 44 ∧
       s.ddtpStep.ddtp &&& 0xFFC00000000003E0 = s.ddtp &&& 0xFFC00000000003E0 ∧
       s.ddtpStep.ddtp.getLsbD 4 = false)

/-- A DDTP step that changes the mode clears every valid flag and keeps every context; a DDTP step that keeps the mode leaves
the cache as it is (R291). IODIR.INV_DDT clears flags too (R297): InvDdtClearsValidFlags. -/
def Obligations.ModeChangeInvalidatesTheCache : Prop :=
  ∀ s : State,
    (s.ddtpStep.ddtMode ≠ s.ddtMode →
      ∀ d, s.ddtpStep.das.find d = (s.das.find d).map (fun e => { e with valid := false })) ∧
    (s.ddtpStep.ddtMode = s.ddtMode → s.ddtpStep.das = s.das)

/-! ### The register file -/

/-- An MMIO read of a whole register returns its value, zero-extended (R72, R150). -/
def Obligations.WholeRegisterReadBack : Prop :=
  ∀ (s : State) (r : Reg), r.Present s.cfg → s.mmioRead r.offset r.width = s.readReg r

/-- An MMIO write of a whole register gives `(old & ro | v & ~ro) & ~(v & wc)`, with BUSY set where the register has it, and
changes no other register (R152, R153, R155). -/
def Obligations.WholeRegisterMaskedWrite : Prop :=
  ∀ (s : State) (r : Reg) (v : Word), s.TablesSized → r.Present s.cfg →
    (s.mmioWrite r.offset r.width v).readReg r =
      ((((s.readReg r &&& r.ro) ||| (v &&& ~~~r.ro)) &&& ~~~(v &&& r.wc)) &&&
        (if r.width = 4 then 0xFFFFFFFF else 0xFFFFFFFFFFFFFFFF)) ||| busyMask r ∧
    ∀ r', r'.Present s.cfg → r' ≠ r → (s.mmioWrite r.offset r.width v).readReg r' = s.readReg r'

/-- Whatever software writes, at any offset and size, a read-only bit keeps its value, and a write-clear bit can only go to
0; BUSY bits aside, which the write path sets (R44, R153, R154). -/
def Obligations.ReadOnlyBitsSurviveWrites : Prop :=
  ∀ (s : State) (a n : Nat) (v : Word) (r : Reg) (i : Nat), s.TablesSized → r.Present s.cfg →
    r.ro.getLsbD i = true → (busyMask r).getLsbD i = false →
    (r.wc.getLsbD i = false → ((s.mmioWrite a n v).readReg r).getLsbD i = (s.readReg r).getLsbD i) ∧
    (((s.mmioWrite a n v).readReg r).getLsbD i = true → (s.readReg r).getLsbD i = true)

/-- A write that covers no register byte, or bytes of CAPS alone, changes nothing; a byte of no register and not of the PBA
reads 0 (R39, R40, R154). -/
def Obligations.UnassignedOffsetsAreInert : Prop :=
  ∀ (s : State),
    (∀ (a n : Nat) (v : Word), (∀ r, r.Present s.cfg → r ≠ .caps → ¬ Touches r a n) → s.mmioWrite a n v = s) ∧
    (∀ o : Nat, (∀ r, r.Present s.cfg → ¬ Touches r o 1) →
      (o < 0x400 ∨ 0x400 + pbaBytes s.cfg ≤ o) → s.windowByte o = 0)

/-- Any write that covers a byte of DDTP or of a queue's CSR sets its BUSY bit, any that covers a byte of CQT sets the
doorbell, and no other write does (R44, R45, R155, R156). -/
def Obligations.WriteSideEffects : Prop :=
  ∀ (s : State) (a n : Nat) (v : Word),
    ((s.mmioWrite a n v).cqDoorbell = true ↔ s.cqDoorbell = true ∨ Touches (.tail .cq) a n) ∧
    ((s.mmioWrite a n v).ddtp.getLsbD 4 = true ↔ s.ddtp.getLsbD 4 = true ∨ Touches .ddtp a n) ∧
    (∀ q, ((s.mmioWrite a n v).queue q).csr.getLsbD 17 = true ↔
      (s.queue q).csr.getLsbD 17 = true ∨ Touches (.csr q) a n)

/-- An MMIO write changes registers and the doorbell and nothing else: the active directory mode and base, the latched
queue descriptors, the armed flags, the cache, memory and the translations in flight stay (R155, R160). -/
def Obligations.MmioWriteFrame : Prop :=
  ∀ (s : State) (a n : Nat) (v : Word),
    s.mmioWrite a n v =
      { s with
        ddtp := (s.mmioWrite a n v).ddtp
        cq := { (s.mmioWrite a n v).cq with base := s.cq.base, mask := s.cq.mask, armed := s.cq.armed }
        fq := { (s.mmioWrite a n v).fq with base := s.fq.base, mask := s.fq.mask, armed := s.fq.armed }
        pq := { (s.mmioWrite a n v).pq with base := s.pq.base, mask := s.pq.mask, armed := s.pq.armed }
        ipsr := (s.mmioWrite a n v).ipsr
        icvec := (s.mmioWrite a n v).icvec
        msi := (s.mmioWrite a n v).msi
        cqDoorbell := (s.mmioWrite a n v).cqDoorbell }

/-- An MMIO access of 1, 2, 4 or 8 bytes is taken at any offset; the model refuses any other size (R75, R157). -/
def Obligations.OtherMmioSizesAreRefused : Prop :=
  ∀ (s : State) (rest : List Event) (a n : Nat) (v : Word),
    (n = 1 ∨ n = 2 ∨ n = 4 ∨ n = 8 →
      step { s with agenda := .mmioRead a n :: rest } =
        .next { s with agenda := rest, outbox := .mmioData a n (s.mmioRead a n) :: s.outbox } ∧
      step { s with agenda := .mmioWrite a n v :: rest } = .next (({ s with agenda := rest } : State).mmioWrite a n v)) ∧
    (n ≠ 1 → n ≠ 2 → n ≠ 4 → n ≠ 8 →
      step { s with agenda := .mmioRead a n :: rest } = .refused (.mmioSize n) ∧
      step { s with agenda := .mmioWrite a n v :: rest } = .refused (.mmioSize n))

/-- The machine never stops but for an MMIO access of a size the bus does not present: every other step, of every agent in
every state, answers a next state (R157, R351, R375, R376; the idle step, the refused sizes and the empty fault type are
logs 6, 9 and 10). -/
def Obligations.OnlyBadMmioSizesStop : Prop :=
  ∀ s : State,
    (∃ t, step s = .next t) ∨
    (∃ a n rest, (s.agenda = .mmioRead a n :: rest ∨ ∃ v, s.agenda = .mmioWrite a n v :: rest) ∧
      n ≠ 1 ∧ n ≠ 2 ∧ n ≠ 4 ∧ n ≠ 8 ∧ step s = .refused (.mmioSize n))

/-! ### The fault queue -/

/-- The guard of the fault writer, and the full ring (R320 to R322, R330). -/
def Obligations.ReportIsDroppedWhenClosedOrFull : Prop :=
  ∀ (s : State) (did : Word) (c : Cause) (ttyp : BitVec 6) (iova phys : Word),
    (s.fq.csr.getLsbD 16 = false ∨ s.fq.csr.getLsbD 8 = true ∨ s.fq.csr.getLsbD 9 = true →
      s.report did c ttyp iova phys = s) ∧
    (s.fq.csr.getLsbD 16 = true → s.fq.csr.getLsbD 8 = false → s.fq.csr.getLsbD 9 = false →
      ((s.fq.qt.setWidth 64 &&& s.fq.mask) + 1) &&& s.fq.mask = s.fq.qh.setWidth 64 &&& s.fq.mask →
      s.report did c ttyp iova phys = fqStatusSet s 0x200)

/-- A failed record write sets FQ_FAULT, keeps the tail, raises nothing, and changes at most the 32 bytes of the slot
(R78, R323; free values, log 5). -/
def Obligations.FailedRecordWriteSetsFqFault : Prop :=
  ∀ (s : State) (did : Word) (c : Cause) (ttyp : BitVec 6) (iova phys : Word),
    s.fq.csr.getLsbD 16 = true → s.fq.csr.getLsbD 8 = false → s.fq.csr.getLsbD 9 = false →
    ((s.fq.qt.setWidth 64 &&& s.fq.mask) + 1) &&& s.fq.mask ≠ s.fq.qh.setWidth 64 &&& s.fq.mask →
    touches s.noWrite (s.fq.base + (s.fq.qt.setWidth 64 &&& s.fq.mask) * 32) 32 = true →
    s.report did c ttyp iova phys =
      { fqStatusSet s 0x100 with
        mem := (s.report did c ttyp iova phys).mem
        draws := (s.report did c ttyp iova phys).draws } ∧
    ∀ x, OutsideBytes (s.fq.base + (s.fq.qt.setWidth 64 &&& s.fq.mask) * 32) 32 x →
      readByte (s.report did c ttyp iova phys).mem x = readByte s.mem x

/-- Taking a translation fault: the record's four dwords stand in the slot at the tail, every other byte is as before, the
tail advances, and with IRQ_ENABLE FIP is set and FIV notified if armed (R323 to R326, R380, R382; the table entry that the
notification carries is the model's choice, log 7). -/
def Obligations.ReportWritesTheRecord : Prop :=
  ∀ (s : State) (did : Word) (c : Cause) (ttyp : BitVec 6) (iova phys : Word),
    s.mem.wf →
    s.fq.csr.getLsbD 16 = true → s.fq.csr.getLsbD 8 = false → s.fq.csr.getLsbD 9 = false →
    ((s.fq.qt.setWidth 64 &&& s.fq.mask) + 1) &&& s.fq.mask ≠ s.fq.qh.setWidth 64 &&& s.fq.mask →
    touches s.noWrite (s.fq.base + (s.fq.qt.setWidth 64 &&& s.fq.mask) * 32) 32 = false →
    let slot := s.fq.base + (s.fq.qt.setWidth 64 &&& s.fq.mask) * 32
    let t := s.report did c ttyp iova phys
    t = { s with
      fq := { s.fq with qt := (((s.fq.qt.setWidth 64 &&& s.fq.mask) + 1) &&& s.fq.mask).setWidth 32 }
      ipsr := if s.fq.csr.getLsbD 1 then s.ipsr ||| 2 else s.ipsr
      outbox := (if s.fq.csr.getLsbD 1 then notification s s.fq.armed (s.icvec.extractLsb' 4 4).toNat else []) ++ s.outbox
      mem := t.mem } ∧
    wordOf (readBytes t.mem slot 8) =
      did <<< 40 ||| ttyp.setWidth 64 <<< 34 ||| (causeCode c).setWidth 64 ∧
    wordOf (readBytes t.mem (slot + 8) 8) = 0 ∧
    wordOf (readBytes t.mem (slot + 16) 8) = iova ∧
    wordOf (readBytes t.mem (slot + 24) 8) = phys ∧
    ∀ x, OutsideBytes slot 32 x → readByte t.mem x = readByte s.mem x

/-- A fault queue with mask `m` takes exactly `m` records while software consumes nothing; the next report sets FQ_FULL
(R331). -/
def Obligations.FaultQueueHoldsMaskRecords : Prop :=
  ∀ (s : State) (did : Word) (c : Cause) (ttyp : BitVec 6) (iova phys : Word),
    s.fq.Shaped → s.noWrite = [] →
    s.fq.csr.getLsbD 16 = true → s.fq.csr.getLsbD 8 = false → s.fq.csr.getLsbD 9 = false →
    s.fq.qt.setWidth 64 &&& s.fq.mask = s.fq.qh.setWidth 64 &&& s.fq.mask →
    (∀ n ≤ s.fq.mask.toNat,
      (reports did c ttyp iova phys n s).fq.csr = s.fq.csr ∧
      (reports did c ttyp iova phys n s).fq.qt.setWidth 64 &&& s.fq.mask =
        (s.fq.qt.setWidth 64 + BitVec.ofNat 64 n) &&& s.fq.mask) ∧
    (reports did c ttyp iova phys (s.fq.mask.toNat + 1) s).fq.csr = s.fq.csr ||| 0x200

/-! ### Translation -/

/-- OFF denies every request and reports DMA_DISABLED with phys 0; BARE passes every address through with mask ~0 and RW,
at once and with no effect (R341; the tags are the model's, log 11). -/
def Obligations.OffDeniesAndBarePasses : Prop :=
  ∀ (s : State) (did iova : Word) (access : Access),
    (s.ddtMode = .bare →
      s.beginTranslate did iova access =
        { s with
          nextTag := s.nextTag + 1
          outbox := .translated s.nextTag ⟨iova, iova, 0xFFFFFFFFFFFFFFFF, .rw⟩ :: s.outbox }) ∧
    (s.ddtMode = .off → (∀ f ∈ s.flights, f.tag < s.nextTag) →
      (s.beginTranslate did iova access).advance s.nextTag =
        let t := s.report did .dmaDisabled (if access = .write ∨ access = .rw then 3 else 2) iova 0
        { t with nextTag := s.nextTag + 1, outbox := .translated s.nextTag ⟨iova, 0, 0, .none⟩ :: t.outbox })

/-- Every fault of the directory walk carries phys 0 and is DDT_FAULT or DDT_INVALID; DDT_UNSUPPORTED only in OFF and BARE
(R181, R188). -/
def Obligations.DirectoryFaultsCarryNoPhys : Prop :=
  ∀ (s : State) (mode : DdtMode) (root did : Word) (f : XFault), s.fetchDC mode root did = .error f →
    f.phys = 0 ∧
    (f.cause = .ddtFault ∨ f.cause = .ddtInvalid ∨
      (f.cause = .ddtUnsupported ∧ (mode = .off ∨ mode = .bare)))

/-- A directory walk that succeeds returns a context whose V bit is set, whose bytes 32 to 63 are 0 without MSI remapping,
for a device id in the range of the mode (R103, R182, R187). -/
def Obligations.FetchedContextIsValidAndInRange : Prop :=
  ∀ (s : State) (mode : DdtMode) (root did : Word) (dc : DC), s.fetchDC mode root did = .ok dc →
    dc.Fetched s.cfg ∧
    ∃ d, directoryDepth mode = some d ∧
      did.toNat < 2 ^ ((if s.cfg.msiEnabled then 6 else 7) + 9 * d) ∧ did.toNat < 2 ^ s.cfg.didWidth

/-- A pattern with a bit outside the mask matches nothing, a zero mask with a zero pattern everything (R260, R261). -/
def Obligations.MsiMatchBoundaries : Prop :=
  ∀ (dc : DC) (iova : Word),
    (dc.msiAddrPattern &&& ~~~dc.msiAddrMask ≠ 0 → inMsiWindow dc iova = false) ∧
    (dc.msiAddrMask = 0 → dc.msiAddrPattern = 0 → inMsiWindow dc iova = true)

/-- The MSI check, whole: it answers a translation only for a page-aligned WRITE in the window with msiptp BARE, and then
with the identity, one page, W; it passes on exactly what is outside the window; and in the window it faults MRIF_FAULT on
any other access, else DDT_INVALID with msiptp OFF and DDT_UNSUPPORTED with every mode but OFF and BARE, each with phys 0
(R250 to R259). -/
def Obligations.MsiAnswersOnlyAlignedWrites : Prop :=
  ∀ (cfg : Config) (dc : DC) (iova : Word) (access : Access),
    (∀ (pa mask : Word) (perm : Perm),
      msiCheck cfg dc iova access = .ok (.ok pa mask perm) ↔
        cfg.msiEnabled = true ∧ (iova >>> 12) &&& dc.msiAddrMask = dc.msiAddrPattern ∧ access = .write ∧
        iova &&& 0xFFF = 0 ∧ dc.msiptp >>> 60 = 1 ∧ pa = iova ∧ mask = 0xFFF ∧ perm = .w) ∧
    (msiCheck cfg dc iova access = .ok .fallThrough ↔
      cfg.msiEnabled = false ∨ (iova >>> 12) &&& dc.msiAddrMask ≠ dc.msiAddrPattern) ∧
    (∀ f : XFault,
      msiCheck cfg dc iova access = .error f ↔
        cfg.msiEnabled = true ∧ (iova >>> 12) &&& dc.msiAddrMask = dc.msiAddrPattern ∧ f.phys = 0 ∧
        ((access ≠ .write ∨ iova &&& 0xFFF ≠ 0) ∧ f.cause = .mrifFault ∨
          access = .write ∧ iova &&& 0xFFF = 0 ∧ dc.msiptp >>> 60 = 0 ∧ f.cause = .ddtInvalid ∨
          access = .write ∧ iova &&& 0xFFF = 0 ∧ 2 ≤ (dc.msiptp >>> 60).toNat ∧ f.cause = .ddtUnsupported))

/-- An address too wide for the configuration faults DMA_DISABLED whatever memory holds, with phys 0 in stage one and the
address in stage two (R211, R213). -/
def Obligations.WidthCheckPrecedesMemory : Prop :=
  ∀ (s : State) (atp : Word) (stageOne : Bool) (addr : Word) (access : Access) (r : Radix),
    atpMode atp = .radix r →
    addr >>> (r.levels * r.indexBits + 12 + (if stageOne then 0 else 2)) ≠ 0 →
    s.walkPass atp stageOne addr access = .error ⟨.dmaDisabled, if stageOne then 0 else addr⟩

/-- The permission check of a well-formed leaf: read before write, X counts for nothing, and the cause depends on the pass
(R222). -/
def Obligations.PermissionFaultCauses : Prop :=
  ∀ (r : Radix) (stageOne : Bool) (addr : Word) (level : Nat) (access : Access) (pte : Word),
    pte.getLsbD 0 = true → (pte.getLsbD 1 = true ∨ (pte.getLsbD 2 = false ∧ pte.getLsbD 3 = true)) →
    (level = 0 ∨ ptePpn r pte &&& lowMask (level * r.indexBits) = 0) →
    checkPte r stageOne addr level access (some pte) =
      if (access = .read ∨ access = .rw) ∧ pte.getLsbD 1 = false then
        .fault (if stageOne then .guestPageFaultRead else .pageFaultRead)
      else if (access = .write ∨ access = .rw) ∧ pte.getLsbD 2 = false then
        .fault (if stageOne then .guestPageFaultWrite else .pageFaultWrite)
      else .leaf ((ptePpn r pte <<< 12) ||| (addr &&& lowMask (12 + level * r.indexBits)))
        (Perm.ofBits (pte.getLsbD 1) (pte.getLsbD 2))

/-- A walk that succeeds grants what was asked: READ and RW get R, WRITE and RW get W, through both stages (R222, R226). -/
def Obligations.WalkGrantsOnlyPermittedAccesses : Prop :=
  ∀ (s : State) (iova gatp satp : Word) (doStage1 : Bool) (access : Access) (w : WalkResult),
    s.walk iova gatp satp doStage1 access = .ok w →
    (access = .read ∨ access = .rw → w.perm = .r ∨ w.perm = .rw) ∧
    (access = .write ∨ access = .rw → w.perm = .w ∨ w.perm = .rw)

/-- A walk that succeeds is the identity with mask ~0 and RW, or maps one page and keeps the page offset (R212, R223, R226). -/
def Obligations.WalkKeepsThePageOffset : Prop :=
  ∀ (s : State) (iova gatp satp : Word) (doStage1 : Bool) (access : Access) (w : WalkResult),
    s.walk iova gatp satp doStage1 access = .ok w →
    (w.mask = 0xFFFFFFFFFFFFFFFF ∧ w.pa = iova ∧ w.perm = .rw) ∨ (w.mask = 0xFFF ∧ w.pa &&& 0xFFF = iova &&& 0xFFF)

/-- A fault of a walk with a stage-one table says which stage raised it: from stage one phys is 0 and the cause is no
page-fault cause; from stage two phys is the guest-physical address that stage one gave and the cause is no guest-page-fault
cause (R211, R222, R224, R385). -/
def Obligations.FaultSaysWhichStage : Prop :=
  ∀ (s : State) (iova gatp satp : Word) (access : Access) (f : XFault),
    s.walk iova gatp satp true access = .error f →
    (s.walkPass satp true iova access = .error f ∧ f.phys = 0 ∧ f.cause ≠ .pageFaultRead ∧ f.cause ≠ .pageFaultWrite) ∨
    (∃ one, s.walkPass satp true iova access = .ok one ∧ s.walkPass gatp false one.pa access = .error f ∧
      f.phys = one.pa ∧ f.cause ≠ .guestPageFaultRead ∧ f.cause ≠ .guestPageFaultWrite)

/-- The stepwise translation is the entry point of R350: a translation that no other agent disturbs has, after its first
step and at most 15 more (R420: 3 directory reads, the fill, 5 + 5 PTE reads, the report), exactly the result and the effect
that R350 gives. The tags and the step that hands the result out are the model's choice (log 11), and so is that steps
after the result change nothing (log 6). -/
def Obligations.UndisturbedTranslationIsTheEntryPoint : Prop :=
  ∀ (s : State) (did iova : Word) (access : Access), (∀ f ∈ s.flights, f.tag < s.nextTag) →
    advances s.nextTag 15 (s.beginTranslate did iova access) =
      { (s.translate did iova access).2 with
        nextTag := s.nextTag + 1
        outbox := .translated s.nextTag (s.translate did iova access).1 :: (s.translate did iova access).2.outbox }

/-- The frame of a translation's steps: a request's first step changes only the cache, the flights and the answers; a later
step changes besides those only the fault queue's tail and FQCSR, IPSR.FIP, and the 32 bytes of one record slot (R349, R351;
flights and tags are the model's, log 11). -/
def Obligations.TranslationFrame : Prop :=
  ∀ (s : State) (did iova : Word) (access : Access) (tag : Nat),
    (let t := s.beginTranslate did iova access
     t = { s with das := t.das, flights := t.flights, nextTag := s.nextTag + 1, outbox := t.outbox }) ∧
    (let t := s.advance tag
     t = { s with
       fq := { s.fq with qt := t.fq.qt, csr := t.fq.csr }
       ipsr := t.ipsr
       das := t.das
       mem := t.mem
       flights := t.flights
       draws := t.draws
       outbox := t.outbox } ∧
     (t.fq.csr = s.fq.csr ∨ t.fq.csr = s.fq.csr ||| 0x100 ∨ t.fq.csr = s.fq.csr ||| 0x200) ∧
     (t.ipsr = s.ipsr ∨ t.ipsr = s.ipsr ||| 2) ∧
     ∀ x, OutsideBytes (s.fq.base + (s.fq.qt.setWidth 64 &&& s.fq.mask) * 32) 32 x →
       readByte t.mem x = readByte s.mem x)

/-- A translation uses the mode and base it sampled: a directory change between its steps, and the DDTP step that makes one,
changes nothing that the translation's next step does (R349, R415). What a DDTP step's invalidation leaves of the cache is
StaleFillIsAdmitted's (flights and tags are the model's, log 11). -/
def Obligations.DirectoryChangeDoesNotDisturbAFlight : Prop :=
  ∀ (s : State) (tag : Nat),
    (∀ (mode : DdtMode) (base : Word),
      ({ s with ddtMode := mode, ddtBase := base } : State).advance tag =
        { s.advance tag with ddtMode := mode, ddtBase := base }) ∧
    s.ddtpStep.advance tag =
      { s.advance tag with
        ddtp := s.ddtpStep.ddtp
        ddtMode := s.ddtpStep.ddtMode
        ddtBase := s.ddtpStep.ddtBase
        das := (s.ddtpStep.advance tag).das }

/-- The stale fill is admitted: an IODIR.INV_DDT or a mode change between a translation's directory reads and its fill is
overwritten by the fill, and the entry ends valid with the context read before (R84, R291, R297, R343; flights and tags are
the model's, log 11). -/
def Obligations.StaleFillIsAdmitted : Prop :=
  ∀ (s : State) (f : Flight) (dc : DC),
    f ∈ s.flights → (s.flights.map Flight.tag).Nodup → f.phase = .fill dc →
    (∀ (t : State) (pid : BitVec 20) (dv : Bool) (did : BitVec 24),
      exec (.iodirInvDdt pid dv did) s = .next t →
      t.das.hit f.did = (if dv = false ∨ f.did = did.setWidth 64 then none else s.das.hit f.did) ∧
      (t.advance f.tag).das.hit f.did = some dc) ∧
    (s.ddtpStep.ddtMode ≠ s.ddtMode →
      (∀ d, s.ddtpStep.das.hit d = none) ∧ (s.ddtpStep.advance f.tag).das.hit f.did = some dc)

/-! ### Reset and invariants -/

/-- After reset every byte of the window reads 0 (CAPS by the default of its parameter, the PBA bytes by the model's choice,
log 8), every translation is denied, nothing is recorded, and the Command Processor is idle (R400, R402; that an idle step
changes nothing is the model's choice, log 6). -/
def Obligations.ResetDeniesEveryAccess : Prop :=
  (∀ o, State.reset.windowByte o = 0) ∧
  ∀ (did iova : Word) (access : Access),
    State.reset.translate did iova access = (⟨iova, 0, 0, .none⟩, State.reset) ∧
    State.reset.processorStep = .next State.reset

/-- Everything of `State.Inv` holds after reset (R400), in every configuration. -/
def Obligations.ResetMeetsTheInvariants : Prop :=
  ∀ cfg : Config, (State.resetWith cfg).Inv

/-- Every step of every agent keeps guest memory and the device-context cache in canonical form (the model's forms, logs 3
and 20) and the tables at their size (R25, R38). -/
def Obligations.StepKeepsCanonicalForms : Prop :=
  ∀ s t : State, s.Canonical → s.TablesSized → step s = .next t → t.Canonical ∧ t.TablesSized

/-- Every step keeps the register invariants: reserved bits read 0 (R21, R36), queues are well shaped (R32, R43, R46), DDTP
without BUSY shows the active mode and base (R29), and a drain pass runs only on an active queue without fault or error
(R280). -/
def Obligations.StepKeepsRegisterInvariants : Prop :=
  ∀ s t : State, s.ReservedZero → s.QueuesShaped → s.DirectoryShown → s.DrainGuarded → step s = .next t →
    t.ReservedZero ∧ t.QueuesShaped ∧ t.DirectoryShown ∧ t.DrainGuarded

/-- Every step keeps the translation invariants: valid cache entries and flights carry contexts the walker returned (R187,
R342); every request is in flight or answered exactly once, none dropped without an answer (R349, R350; the tags that name
the requests are the model's, log 11); and only configured vectors are notified (R383). -/
def Obligations.StepKeepsTranslationInvariants : Prop :=
  ∀ s t : State, s.ContextsFetched → s.AnsweredOnce → s.NotifiesConfigured → step s = .next t →
    t.ContextsFetched ∧ t.AnsweredOnce ∧ t.NotifiesConfigured

/-- The Command Processor is the sole mutator of the directory mode and base, and only in its DDTP step; no step changes
the parameters (R42, R290, R304; who steps is read from the agenda, log 6). -/
def Obligations.OnlyTheDdtpStepMovesTheDirectory : Prop :=
  ∀ s t : State, step s = .next t →
    t.cfg = s.cfg ∧
    (t.ddtMode = s.ddtMode ∧ t.ddtBase = s.ddtBase ∨
      s.selected = some .ddtp ∧ (s.agenda = [] ∨ ∃ rest, s.agenda = .processor :: rest))

/-! ### Which faults are reported -/

/-- Which faults of a translation are reported, in a directory mode (R345, R346, R347, R348). A fault of the directory walk
always is. Once a context `dc` is known, from the cache or from the walk, DTF suppresses every report; without DTF, PDTV is
reported as DDT_UNSUPPORTED with phys 0 before the MSI check, a fault of the MSI check as it is, and a fault of the
page-table walk as it is; every one is denied. The last clause is about the machine's own steps, disturbed or not: no
translation that finds or carries a context with DTF comes to wait for a report (the steps are the model's, log 11). -/
def Obligations.FaultsAreReportedUnlessDisabled : Prop :=
  ∀ (s : State) (did iova : Word) (access : Access),
    let t := s.translate did iova access
    let ttyp : BitVec 6 := if access = .write ∨ access = .rw then 3 else 2
    let cached : State := { s with das := t.2.das }
    (s.ddtMode ≠ .off → s.ddtMode ≠ .bare →
      (∀ f, s.das.hit did = none → s.fetchDC s.ddtMode s.ddtBase did = .error f →
        t = (⟨iova, 0, 0, .none⟩, cached.report did f.cause ttyp iova f.phys)) ∧
      ∀ dc, (s.das.hit did = some dc ∨ s.das.hit did = none ∧ s.fetchDC s.ddtMode s.ddtBase did = .ok dc) →
        (dc.tc.getLsbD 4 = true → t.2 = cached) ∧
        (dc.tc.getLsbD 5 = true → t.1 = ⟨iova, 0, 0, .none⟩ ∧
          (dc.tc.getLsbD 4 = false → t.2 = cached.report did .ddtUnsupported ttyp iova 0)) ∧
        (∀ f, dc.tc.getLsbD 5 = false → msiCheck s.cfg dc iova access = .error f → t.1 = ⟨iova, 0, 0, .none⟩ ∧
          (dc.tc.getLsbD 4 = false → t.2 = cached.report did f.cause ttyp iova f.phys)) ∧
        (∀ f, dc.tc.getLsbD 5 = false → msiCheck s.cfg dc iova access = .ok .fallThrough →
          s.walk iova dc.gatp dc.satp (atpMode dc.satp ≠ .bare) access = .error f → t.1 = ⟨iova, 0, 0, .none⟩ ∧
          (dc.tc.getLsbD 4 = false → t.2 = cached.report did f.cause ttyp iova f.phys))) ∧
    (∀ (f : Flight) (dc : DC) (c : Cause) (phys : Word), dc.tc.getLsbD 4 = true →
      (s.ddtMode ≠ .off → s.das.hit did = some dc → (s.firstStep did iova access).1 ≠ .wait (.report c phys)) ∧
      (f.phase.context = some dc → (s.flightStep f).1 ≠ .wait (.report c phys)))
end

