-- ==== Sys2Proof/Laws/Bits.lean ====
section
/-! SUPPORT. Bit fields and byte order: what reading a bit or a byte after an update gives. -/

namespace Sys2Proof.Machine

theorem getLsbD_withBit {w : Nat} (v : BitVec w) (i j : Nat) (b : Bool) :
    (withBit v i b).getLsbD j = if i = j then (decide (i < w) && b) else v.getLsbD j := by
  unfold withBit
  rcases Nat.lt_or_ge j w with h | h
  · by_cases hij : i = j
    · subst hij
      cases b <;> simp [h]
    · have hji : ¬ j = i := fun e => hij e.symm
      cases b <;> simp [hij, hji, h]
  · by_cases hij : i = j
    · subst hij
      cases b <;> simp [BitVec.getLsbD_of_ge, h]
    · cases b <;> simp [BitVec.getLsbD_of_ge, h, hij]

/-- Reading back the bit that was set. -/
@[simp] theorem bit_withBit_same {w : Nat} (v : BitVec w) (i : Nat) (b : Bool) (h : i < w) :
    bit (withBit v i b) i = b := by
  rw [bit, getLsbD_withBit]
  simp [h]

/-- Another bit is unchanged. -/
theorem bit_withBit_other {w : Nat} (v : BitVec w) {i j : Nat} (b : Bool) (h : i ≠ j) :
    bit (withBit v i b) j = bit v j := by
  rw [bit, getLsbD_withBit, if_neg h, bit]

@[simp] theorem leBytes_length (n v : Nat) : (leBytes n v).length = n := by
  induction n generalizing v with
  | zero => rfl
  | succ n ih => simp [leBytes, ih]

/-- The bytes of a value give the value back, modulo their size (R71). -/
theorem leNat_leBytes (n v : Nat) : leNat (leBytes n v) = v % 256 ^ n := by
  induction n generalizing v with
  | zero => simp [leBytes, leNat, Nat.mod_one]
  | succ n ih =>
    have h8 : (2 : Nat) ^ 8 = 256 := rfl
    simp only [leBytes, leNat, ih, BitVec.toNat_ofNat, h8]
    rw [Nat.pow_succ, Nat.mul_comm (256 ^ n) 256, Nat.mod_mul]

theorem take_leBytes (k n v : Nat) (h : k ≤ n) : (leBytes n v).take k = leBytes k v := by
  induction k generalizing n v with
  | zero => simp [leBytes]
  | succ k ih =>
    cases n with
    | zero => omega
    | succ n => simp [leBytes, ih n (v / 256) (by omega)]

theorem drop_leBytes (k n v : Nat) (h : k ≤ n) : (leBytes n v).drop k = leBytes (n - k) (v / 256 ^ k) := by
  induction k generalizing n v with
  | zero => simp
  | succ k ih =>
    cases n with
    | zero => omega
    | succ n =>
      simp only [leBytes, List.drop_succ_cons]
      rw [ih n (v / 256) (by omega), Nat.div_div_eq_div_mul, Nat.pow_succ, Nat.mul_comm (256 ^ k) 256]
      congr 1
      omega

/-- The first word of the bytes of a word is that word (R71). -/
theorem wordOf_leBytes (w : Word) (bs : List Byte) : wordOf (leBytes 8 w.toNat ++ bs) = w := by
  have h : (leBytes 8 w.toNat ++ bs).take 8 = leBytes 8 w.toNat := by
    rw [List.take_append_of_le_length (by simp)]
    rw [List.take_of_length_le (by simp)]
  unfold wordOf
  rw [h, leNat_leBytes]
  apply BitVec.eq_of_toNat_eq
  have := w.isLt
  simp only [BitVec.toNat_ofNat]
  omega

end Sys2Proof.Machine
end

