-- ==== Sys2Proof/Laws/Cache.lean ====
section
/-! SUPPORT. The laws of the device-context cache: a lookup after each update, and that every update keeps the canonical
form. -/

namespace Sys2Proof.Machine

/-- An entry found stands in the cache under the device id asked for. -/
theorem DasCache.find_mem {c : DasCache} {d : Word} {e : DasEntry} (h : c.find d = some e) : e ∈ c ∧ e.did = d := by
  induction c with
  | nil => simp [DasCache.find] at h
  | cons x c ih =>
    simp only [DasCache.find] at h
    split at h
    · rename_i hd
      cases h
      exact ⟨by simp, hd.symm⟩
    · exact ⟨List.mem_cons_of_mem _ (ih h).1, (ih h).2⟩

/-- The entry put in is the one found. -/
@[simp] theorem DasCache.find_put_same (c : DasCache) (e : DasEntry) : (c.put e).find e.did = some e := by
  induction c with
  | nil => simp [DasCache.put, DasCache.find]
  | cons x c ih =>
    simp only [DasCache.put]
    split
    · simp [DasCache.find]
    · split
      · simp [DasCache.find]
      · rename_i h
        simp only [DasCache.find, if_neg h]
        exact ih

/-- Putting an entry leaves every other device's entry alone. -/
theorem DasCache.find_put_other (c : DasCache) (e : DasEntry) {d : Word} (h : d ≠ e.did) :
    (c.put e).find d = c.find d := by
  induction c with
  | nil => simp [DasCache.put, DasCache.find, h]
  | cons x c ih =>
    simp only [DasCache.put]
    split
    · simp [DasCache.find, h]
    · split
      · rename_i hx
        simp [DasCache.find, h, ← hx]
      · simp only [DasCache.find, ih]

/-- An update that keeps device ids acts on what is found. -/
theorem DasCache.find_map (c : DasCache) (g : DasEntry → DasEntry) (hg : ∀ e, (g e).did = e.did) (d : Word) :
    DasCache.find (c.map g) d = (c.find d).map g := by
  induction c with
  | nil => rfl
  | cons x c ih =>
    simp only [List.map_cons, DasCache.find, hg]
    split
    · rfl
    · exact ih

/-- `InvalidateAllDC` keeps every entry and clears its flag (R291). -/
@[simp] theorem DasCache.find_invalidateAll (c : DasCache) (d : Word) :
    c.invalidateAll.find d = (c.find d).map (fun e => { e with valid := false }) :=
  c.find_map (fun e => { e with valid := false }) (fun _ => rfl) d

/-- Invalidating one device (R297). -/
theorem DasCache.find_invalidate (c : DasCache) (did d : Word) :
    (c.invalidate did).find d =
      (c.find d).map (fun e => if e.did = did then { e with valid := false } else e) :=
  c.find_map (fun e => if e.did = did then { e with valid := false } else e) (fun e => by split <;> rfl) d

/-- What stands in the cache after a put stood there before or was put in. -/
theorem DasCache.mem_put {c : DasCache} {e x : DasEntry} (h : x ∈ c.put e) : x = e ∨ x ∈ c := by
  induction c with
  | nil => exact .inl (by simpa [DasCache.put] using h)
  | cons y c ih =>
    simp only [DasCache.put] at h
    split at h
    · simpa using h
    · split at h
      · rcases List.mem_cons.mp h with h | h
        · exact .inl h
        · exact .inr (List.mem_cons_of_mem _ h)
      · rcases List.mem_cons.mp h with h | h
        · exact .inr (by simp [h])
        · exact (ih h).imp id (List.mem_cons_of_mem _)

/-- A put keeps the canonical form. -/
theorem DasCache.wf_put {c : DasCache} (e : DasEntry) (h : c.wf) : (c.put e).wf := by
  induction c with
  | nil => simp [DasCache.put, DasCache.wf]
  | cons x c ih =>
    obtain ⟨hx, hc⟩ := List.pairwise_cons.mp h
    simp only [DasCache.put]
    split
    · rename_i hlt
      refine List.pairwise_cons.mpr ⟨fun y hy => ?_, h⟩
      rcases List.mem_cons.mp hy with rfl | hy
      · exact hlt
      · exact Nat.lt_trans hlt (hx y hy)
    · split
      · rename_i he
        exact List.pairwise_cons.mpr ⟨fun y hy => he ▸ hx y hy, hc⟩
      · rename_i hlt hne
        refine List.pairwise_cons.mpr ⟨fun y hy => ?_, ih hc⟩
        have hne' : e.did.toNat ≠ x.did.toNat := fun h => hne (BitVec.eq_of_toNat_eq h)
        rcases DasCache.mem_put hy with rfl | hy
        · omega
        · exact hx y hy

/-- An update that keeps device ids keeps the canonical form. -/
theorem DasCache.wf_map {c : DasCache} (g : DasEntry → DasEntry) (hg : ∀ e, (g e).did = e.did) (h : c.wf) :
    DasCache.wf (c.map g) := by
  rw [DasCache.wf, List.pairwise_map]
  exact h.imp (fun hab => by simpa [hg] using hab)

theorem DasCache.wf_invalidateAll {c : DasCache} (h : c.wf) : c.invalidateAll.wf :=
  DasCache.wf_map (fun e => { e with valid := false }) (fun _ => rfl) h

theorem DasCache.wf_invalidate {c : DasCache} (did : Word) (h : c.wf) : (c.invalidate did).wf :=
  DasCache.wf_map (fun e => if e.did = did then { e with valid := false } else e)
    (fun e => by split <;> rfl) h

theorem DasCache.wf_touch {c : DasCache} (did : Word) (h : c.wf) : (c.touch did).wf := by
  unfold DasCache.touch
  split
  · exact h
  · exact DasCache.wf_put _ h

end Sys2Proof.Machine
end

