-- ==== Sys2Proof/Laws/Memory.lean ====
section
/-! SUPPORT. The laws of guest memory: a read after a write, and that every memory operation keeps the canonical form. -/

namespace Sys2Proof.Machine

/-! ### One byte -/

/-- A write leaves every other address alone. -/
theorem Memory.get_put_other (m : Memory) {x y : Nat} (v : Byte) (h : y ≠ x) : (m.put x v).get y = m.get y := by
  induction m with
  | nil => simp only [Memory.put]; split <;> simp [Memory.get, h]
  | cons c m ih =>
    obtain ⟨a, b⟩ := c
    simp only [Memory.put]
    split
    · split <;> simp [Memory.get, h]
    · split
      · rename_i hxa
        subst hxa
        split <;> simp [Memory.get, h]
      · simp [Memory.get, ih]

/-- An address below every entry is unlisted. -/
theorem Memory.get_of_lt (m : Memory) {x : Nat} (h : ∀ c ∈ m, x < c.1) : m.get x = Memory.unlisted := by
  induction m with
  | nil => rfl
  | cons c m ih =>
    have hc := h c (by simp)
    simp only [Memory.get]
    rw [if_neg (by omega)]
    exact ih (fun d hd => h d (by simp [hd]))

/-- A read after a write to the same address gives the value written. -/
theorem Memory.get_put_same (m : Memory) (x : Nat) (v : Byte) (hm : m.wf) : (m.put x v).get x = v := by
  induction m with
  | nil => simp only [Memory.put]; split <;> simp_all [Memory.get]
  | cons c m ih =>
    obtain ⟨a, b⟩ := c
    obtain ⟨hp, hc⟩ := hm
    rw [List.pairwise_cons] at hp
    have hrest : Memory.wf m := ⟨hp.2, fun c hcm => hc c (by simp [hcm])⟩
    have hlt : ∀ c ∈ m, a < c.1 := fun c hcm => hp.1 c hcm
    simp only [Memory.put]
    split
    · rename_i hxa
      split
      · rename_i hv
        rw [hv]
        exact Memory.get_of_lt _ (by
          intro c hc'
          rcases List.mem_cons.mp hc' with rfl | hc'
          · exact hxa
          · exact Nat.lt_trans hxa (hlt c hc'))
      · simp [Memory.get]
    · split
      · rename_i hxa
        subst hxa
        split
        · rename_i hv
          rw [hv]
          exact Memory.get_of_lt _ hlt
        · simp [Memory.get]
      · rename_i hne
        simp [Memory.get, hne, ih hrest]

/-- Every address of a memory after a write was listed before or is the one written. -/
theorem Memory.mem_put {m : Memory} {x : Nat} {v : Byte} {c : Host.Cell} (h : c ∈ m.put x v) :
    c ∈ m ∨ (c = (x, v) ∧ v ≠ Memory.unlisted) := by
  induction m with
  | nil =>
    simp only [Memory.put] at h
    split at h <;> simp_all
  | cons d m ih =>
    obtain ⟨a, b⟩ := d
    simp only [Memory.put] at h
    split at h
    · split at h
      · exact .inl h
      · rcases List.mem_cons.mp h with h | h
        · exact .inr ⟨h, ‹_›⟩
        · exact .inl h
    · split at h
      · split at h
        · exact .inl (by simp [h])
        · rcases List.mem_cons.mp h with h | h
          · exact .inr ⟨h, ‹_›⟩
          · exact .inl (by simp [h])
      · rcases List.mem_cons.mp h with h | h
        · exact .inl (by simp [h])
        · rcases ih h with h | h
          · exact .inl (by simp [h])
          · exact .inr h

/-- A write of one byte keeps the canonical form. -/
theorem Memory.wf_put (m : Memory) {x : Nat} (v : Byte) (hm : m.wf) (hx : x < 2 ^ 64) : (m.put x v).wf := by
  refine ⟨?_, fun c hc => ?_⟩
  · induction m with
    | nil => simp only [Memory.put]; split <;> simp
    | cons c m ih =>
      obtain ⟨a, b⟩ := c
      obtain ⟨hp, hc⟩ := hm
      have hp' := List.pairwise_cons.mp hp
      simp only [Memory.put]
      split
      · rename_i hxa
        split
        · exact hp
        · refine List.pairwise_cons.mpr ⟨fun c hc' => ?_, hp⟩
          rcases List.mem_cons.mp hc' with rfl | hc'
          · exact hxa
          · exact Nat.lt_trans hxa (hp'.1 c hc')
      · split
        · rename_i hxa
          subst hxa
          split
          · exact hp'.2
          · exact List.pairwise_cons.mpr ⟨fun c hc' => hp'.1 c hc', hp'.2⟩
        · rename_i hlt hne
          refine List.pairwise_cons.mpr
            ⟨fun c hc' => ?_, ih ⟨hp'.2, fun c hcm => hc c (by simp [hcm])⟩⟩
          rcases Memory.mem_put hc' with h | ⟨rfl, -⟩
          · exact hp'.1 c h
          · show a < x
            omega
  · rcases Memory.mem_put hc with h | ⟨rfl, hv⟩
    · exact hm.2 c h
    · exact ⟨hv, hx⟩

theorem readByte_writeByte_other (m : Memory) {a b : Word} (v : Byte) (h : b ≠ a) :
    readByte (writeByte m a v) b = readByte m b :=
  Memory.get_put_other m v (fun e => h (BitVec.eq_of_toNat_eq e))

theorem readByte_writeByte_same (m : Memory) (a : Word) (v : Byte) (hm : m.wf) :
    readByte (writeByte m a v) a = v := Memory.get_put_same m a.toNat v hm

theorem writeByte_wf (m : Memory) (a : Word) (v : Byte) (hm : m.wf) : (writeByte m a v).wf :=
  Memory.wf_put m v hm a.isLt

/-! ### Several bytes -/

/-- A store keeps the canonical form. -/
theorem writeBytes_wf (m : Memory) (a : Word) (bs : List Byte) (hm : m.wf) : (writeBytes m a bs).wf := by
  induction bs generalizing m a with
  | nil => exact hm
  | cons b bs ih => exact ih _ _ (writeByte_wf m a b hm)

/-- An address outside the stored bytes reads as before. -/
theorem readByte_writeBytes_outside (m : Memory) (a : Word) (bs : List Byte) (x : Word)
    (h : ∀ k < bs.length, x ≠ a + BitVec.ofNat 64 k) : readByte (writeBytes m a bs) x = readByte m x := by
  induction bs generalizing m a with
  | nil => rfl
  | cons b bs ih =>
    rw [writeBytes, ih]
    · exact readByte_writeByte_other m b (by simpa using h 0 (by simp))
    · intro k hk
      have := h (k + 1) (by simpa using hk)
      rw [BitVec.ofNat_add] at this
      rw [BitVec.add_assoc, BitVec.add_comm 1]
      exact this

@[simp] theorem readBytes_length (m : Memory) (a : Word) (n : Nat) : (readBytes m a n).length = n := by
  induction n generalizing a with
  | zero => rfl
  | succ n ih => simp [readBytes, ih]

/-- Two memories that agree on the bytes of an access read the same. -/
theorem readBytes_congr (m m' : Memory) (a : Word) (n : Nat)
    (h : ∀ k < n, readByte m (a + BitVec.ofNat 64 k) = readByte m' (a + BitVec.ofNat 64 k)) :
    readBytes m a n = readBytes m' a n := by
  induction n generalizing a with
  | zero => rfl
  | succ n ih =>
    have h0 := h 0 (by simp)
    simp only [BitVec.add_zero] at h0
    simp only [readBytes, List.cons.injEq]
    refine ⟨by simpa using h0, ih (a + 1) (fun k hk => ?_)⟩
    have := h (k + 1) (by omega)
    rw [BitVec.ofNat_add] at this
    rw [BitVec.add_assoc, BitVec.add_comm 1]
    exact this

/-- A store of at most 2^64 bytes reads back (R71). -/
theorem readBytes_writeBytes (m : Memory) (a : Word) (bs : List Byte) (hm : m.wf) (hn : bs.length ≤ 2 ^ 64) :
    readBytes (writeBytes m a bs) a bs.length = bs := by
  induction bs generalizing m a with
  | nil => rfl
  | cons b bs ih =>
    simp only [writeBytes, List.length_cons, readBytes, List.cons.injEq]
    refine ⟨?_, ih _ _ (writeByte_wf m a b hm) (by simp at hn; omega)⟩
    rw [readByte_writeBytes_outside, readByte_writeByte_same m a b hm]
    intro k hk he
    simp only [List.length_cons] at hn
    have h1 : (1 : Word) + BitVec.ofNat 64 k = 0 := by
      have := congrArg (fun z => z - a) he
      simp only [BitVec.sub_self] at this
      rw [BitVec.add_assoc, BitVec.add_comm, BitVec.add_sub_cancel] at this
      exact this.symm
    have h2 := congrArg BitVec.toNat h1
    simp only [BitVec.toNat_add, BitVec.toNat_ofNat, BitVec.ofNat_eq_ofNat] at h2
    omega

/-- A read does not change when the read ranges do not fail it. -/
theorem State.memRead_eq (s : State) (a : Word) (n : Nat) (h : touches s.noRead a n = false) :
    s.memRead a n = some (readBytes s.mem a n) := by
  simp [State.memRead, h]

@[simp] theorem freeBytes_length (d n : Nat) : (freeBytes d n).length = n := by
  induction n generalizing d with
  | zero => rfl
  | succ n ih => simp [freeBytes, ih]

/-- The canonical form after a store of the state. -/
theorem State.store_wf (s : State) (a : Word) (bs : List Byte) (h : s.mem.wf) : (s.store a bs).mem.wf :=
  writeBytes_wf _ _ _ h

/-- The canonical form after a failed store. -/
theorem State.failedStore_wf (s : State) (a : Word) (n : Nat) (h : s.mem.wf) : (s.failedStore a n).mem.wf :=
  writeBytes_wf _ _ _ h

/-- Reset's memory has the canonical form. -/
theorem State.reset_mem_wf : State.reset.mem.wf := by decide

end Sys2Proof.Machine
end

