-- ==== Sys2Proof/Laws/State.lean ====
section
/-! SUPPORT. One lemma per field per named update of the state: what each shared operation leaves unchanged, and the value
of what it writes where that is one field. -/

namespace Sys2Proof.Machine

/-! ### emit -/

@[simp] theorem State.emit_cfg (s : State) (r : Response) : (s.emit r).cfg = s.cfg := rfl
@[simp] theorem State.emit_ddtp (s : State) (r : Response) : (s.emit r).ddtp = s.ddtp := rfl
@[simp] theorem State.emit_cq (s : State) (r : Response) : (s.emit r).cq = s.cq := rfl
@[simp] theorem State.emit_fq (s : State) (r : Response) : (s.emit r).fq = s.fq := rfl
@[simp] theorem State.emit_pq (s : State) (r : Response) : (s.emit r).pq = s.pq := rfl
@[simp] theorem State.emit_ipsr (s : State) (r : Response) : (s.emit r).ipsr = s.ipsr := rfl
@[simp] theorem State.emit_icvec (s : State) (r : Response) : (s.emit r).icvec = s.icvec := rfl
@[simp] theorem State.emit_msi (s : State) (r : Response) : (s.emit r).msi = s.msi := rfl
@[simp] theorem State.emit_pba (s : State) (r : Response) : (s.emit r).pba = s.pba := rfl
@[simp] theorem State.emit_ddtMode (s : State) (r : Response) : (s.emit r).ddtMode = s.ddtMode := rfl
@[simp] theorem State.emit_ddtBase (s : State) (r : Response) : (s.emit r).ddtBase = s.ddtBase := rfl
@[simp] theorem State.emit_cqDoorbell (s : State) (r : Response) : (s.emit r).cqDoorbell = s.cqDoorbell := rfl
@[simp] theorem State.emit_cqDraining (s : State) (r : Response) : (s.emit r).cqDraining = s.cqDraining := rfl
@[simp] theorem State.emit_das (s : State) (r : Response) : (s.emit r).das = s.das := rfl
@[simp] theorem State.emit_mem (s : State) (r : Response) : (s.emit r).mem = s.mem := rfl
@[simp] theorem State.emit_noRead (s : State) (r : Response) : (s.emit r).noRead = s.noRead := rfl
@[simp] theorem State.emit_noWrite (s : State) (r : Response) : (s.emit r).noWrite = s.noWrite := rfl
@[simp] theorem State.emit_flights (s : State) (r : Response) : (s.emit r).flights = s.flights := rfl
@[simp] theorem State.emit_nextTag (s : State) (r : Response) : (s.emit r).nextTag = s.nextTag := rfl
@[simp] theorem State.emit_draws (s : State) (r : Response) : (s.emit r).draws = s.draws := rfl
@[simp] theorem State.emit_agenda (s : State) (r : Response) : (s.emit r).agenda = s.agenda := rfl
@[simp] theorem State.emit_outbox (s : State) (r : Response) : (s.emit r).outbox = r :: s.outbox := rfl

/-! ### store -/

@[simp] theorem State.store_cfg (s : State) (a : Word) (bs : List Byte) : (s.store a bs).cfg = s.cfg := rfl
@[simp] theorem State.store_ddtp (s : State) (a : Word) (bs : List Byte) : (s.store a bs).ddtp = s.ddtp := rfl
@[simp] theorem State.store_cq (s : State) (a : Word) (bs : List Byte) : (s.store a bs).cq = s.cq := rfl
@[simp] theorem State.store_fq (s : State) (a : Word) (bs : List Byte) : (s.store a bs).fq = s.fq := rfl
@[simp] theorem State.store_pq (s : State) (a : Word) (bs : List Byte) : (s.store a bs).pq = s.pq := rfl
@[simp] theorem State.store_ipsr (s : State) (a : Word) (bs : List Byte) : (s.store a bs).ipsr = s.ipsr := rfl
@[simp] theorem State.store_icvec (s : State) (a : Word) (bs : List Byte) : (s.store a bs).icvec = s.icvec := rfl
@[simp] theorem State.store_msi (s : State) (a : Word) (bs : List Byte) : (s.store a bs).msi = s.msi := rfl
@[simp] theorem State.store_pba (s : State) (a : Word) (bs : List Byte) : (s.store a bs).pba = s.pba := rfl
@[simp] theorem State.store_ddtMode (s : State) (a : Word) (bs : List Byte) : (s.store a bs).ddtMode = s.ddtMode := rfl
@[simp] theorem State.store_ddtBase (s : State) (a : Word) (bs : List Byte) : (s.store a bs).ddtBase = s.ddtBase := rfl
@[simp] theorem State.store_cqDoorbell (s : State) (a : Word) (bs : List Byte) : (s.store a bs).cqDoorbell = s.cqDoorbell := rfl
@[simp] theorem State.store_cqDraining (s : State) (a : Word) (bs : List Byte) : (s.store a bs).cqDraining = s.cqDraining := rfl
@[simp] theorem State.store_das (s : State) (a : Word) (bs : List Byte) : (s.store a bs).das = s.das := rfl
@[simp] theorem State.store_mem (s : State) (a : Word) (bs : List Byte) : (s.store a bs).mem = writeBytes s.mem a bs := rfl
@[simp] theorem State.store_noRead (s : State) (a : Word) (bs : List Byte) : (s.store a bs).noRead = s.noRead := rfl
@[simp] theorem State.store_noWrite (s : State) (a : Word) (bs : List Byte) : (s.store a bs).noWrite = s.noWrite := rfl
@[simp] theorem State.store_flights (s : State) (a : Word) (bs : List Byte) : (s.store a bs).flights = s.flights := rfl
@[simp] theorem State.store_nextTag (s : State) (a : Word) (bs : List Byte) : (s.store a bs).nextTag = s.nextTag := rfl
@[simp] theorem State.store_draws (s : State) (a : Word) (bs : List Byte) : (s.store a bs).draws = s.draws := rfl
@[simp] theorem State.store_agenda (s : State) (a : Word) (bs : List Byte) : (s.store a bs).agenda = s.agenda := rfl
@[simp] theorem State.store_outbox (s : State) (a : Word) (bs : List Byte) : (s.store a bs).outbox = s.outbox := rfl

/-! ### failedStore -/

@[simp] theorem State.failedStore_cfg (s : State) (a : Word) (n : Nat) : (s.failedStore a n).cfg = s.cfg := rfl
@[simp] theorem State.failedStore_ddtp (s : State) (a : Word) (n : Nat) : (s.failedStore a n).ddtp = s.ddtp := rfl
@[simp] theorem State.failedStore_cq (s : State) (a : Word) (n : Nat) : (s.failedStore a n).cq = s.cq := rfl
@[simp] theorem State.failedStore_fq (s : State) (a : Word) (n : Nat) : (s.failedStore a n).fq = s.fq := rfl
@[simp] theorem State.failedStore_pq (s : State) (a : Word) (n : Nat) : (s.failedStore a n).pq = s.pq := rfl
@[simp] theorem State.failedStore_ipsr (s : State) (a : Word) (n : Nat) : (s.failedStore a n).ipsr = s.ipsr := rfl
@[simp] theorem State.failedStore_icvec (s : State) (a : Word) (n : Nat) : (s.failedStore a n).icvec = s.icvec := rfl
@[simp] theorem State.failedStore_msi (s : State) (a : Word) (n : Nat) : (s.failedStore a n).msi = s.msi := rfl
@[simp] theorem State.failedStore_pba (s : State) (a : Word) (n : Nat) : (s.failedStore a n).pba = s.pba := rfl
@[simp] theorem State.failedStore_ddtMode (s : State) (a : Word) (n : Nat) : (s.failedStore a n).ddtMode = s.ddtMode := rfl
@[simp] theorem State.failedStore_ddtBase (s : State) (a : Word) (n : Nat) : (s.failedStore a n).ddtBase = s.ddtBase := rfl
@[simp] theorem State.failedStore_cqDoorbell (s : State) (a : Word) (n : Nat) : (s.failedStore a n).cqDoorbell = s.cqDoorbell := rfl
@[simp] theorem State.failedStore_cqDraining (s : State) (a : Word) (n : Nat) : (s.failedStore a n).cqDraining = s.cqDraining := rfl
@[simp] theorem State.failedStore_das (s : State) (a : Word) (n : Nat) : (s.failedStore a n).das = s.das := rfl
@[simp] theorem State.failedStore_mem (s : State) (a : Word) (n : Nat) : (s.failedStore a n).mem = writeBytes s.mem a (freeBytes s.draws n) := rfl
@[simp] theorem State.failedStore_noRead (s : State) (a : Word) (n : Nat) : (s.failedStore a n).noRead = s.noRead := rfl
@[simp] theorem State.failedStore_noWrite (s : State) (a : Word) (n : Nat) : (s.failedStore a n).noWrite = s.noWrite := rfl
@[simp] theorem State.failedStore_flights (s : State) (a : Word) (n : Nat) : (s.failedStore a n).flights = s.flights := rfl
@[simp] theorem State.failedStore_nextTag (s : State) (a : Word) (n : Nat) : (s.failedStore a n).nextTag = s.nextTag := rfl
@[simp] theorem State.failedStore_draws (s : State) (a : Word) (n : Nat) : (s.failedStore a n).draws = s.draws + n := rfl
@[simp] theorem State.failedStore_agenda (s : State) (a : Word) (n : Nat) : (s.failedStore a n).agenda = s.agenda := rfl
@[simp] theorem State.failedStore_outbox (s : State) (a : Word) (n : Nat) : (s.failedStore a n).outbox = s.outbox := rfl

/-! ### commandDone -/

@[simp] theorem State.commandDone_cfg (s : State) : (s.commandDone).cfg = s.cfg := rfl
@[simp] theorem State.commandDone_ddtp (s : State) : (s.commandDone).ddtp = s.ddtp := rfl
@[simp] theorem State.commandDone_cq (s : State) : (s.commandDone).cq = { s.cq with qh := (s.cq.next s.cq.head).setWidth 32 } := rfl
@[simp] theorem State.commandDone_fq (s : State) : (s.commandDone).fq = s.fq := rfl
@[simp] theorem State.commandDone_pq (s : State) : (s.commandDone).pq = s.pq := rfl
@[simp] theorem State.commandDone_ipsr (s : State) : (s.commandDone).ipsr = s.ipsr := rfl
@[simp] theorem State.commandDone_icvec (s : State) : (s.commandDone).icvec = s.icvec := rfl
@[simp] theorem State.commandDone_msi (s : State) : (s.commandDone).msi = s.msi := rfl
@[simp] theorem State.commandDone_pba (s : State) : (s.commandDone).pba = s.pba := rfl
@[simp] theorem State.commandDone_ddtMode (s : State) : (s.commandDone).ddtMode = s.ddtMode := rfl
@[simp] theorem State.commandDone_ddtBase (s : State) : (s.commandDone).ddtBase = s.ddtBase := rfl
@[simp] theorem State.commandDone_cqDoorbell (s : State) : (s.commandDone).cqDoorbell = s.cqDoorbell := rfl
@[simp] theorem State.commandDone_cqDraining (s : State) : (s.commandDone).cqDraining = s.cqDraining := rfl
@[simp] theorem State.commandDone_das (s : State) : (s.commandDone).das = s.das := rfl
@[simp] theorem State.commandDone_mem (s : State) : (s.commandDone).mem = s.mem := rfl
@[simp] theorem State.commandDone_noRead (s : State) : (s.commandDone).noRead = s.noRead := rfl
@[simp] theorem State.commandDone_noWrite (s : State) : (s.commandDone).noWrite = s.noWrite := rfl
@[simp] theorem State.commandDone_flights (s : State) : (s.commandDone).flights = s.flights := rfl
@[simp] theorem State.commandDone_nextTag (s : State) : (s.commandDone).nextTag = s.nextTag := rfl
@[simp] theorem State.commandDone_draws (s : State) : (s.commandDone).draws = s.draws := rfl
@[simp] theorem State.commandDone_agenda (s : State) : (s.commandDone).agenda = s.agenda := rfl
@[simp] theorem State.commandDone_outbox (s : State) : (s.commandDone).outbox = s.outbox := rfl

/-! ### setFqStatus -/

@[simp] theorem State.setFqStatus_cfg (s : State) (i : Nat) : (s.setFqStatus i).cfg = s.cfg := rfl
@[simp] theorem State.setFqStatus_ddtp (s : State) (i : Nat) : (s.setFqStatus i).ddtp = s.ddtp := rfl
@[simp] theorem State.setFqStatus_cq (s : State) (i : Nat) : (s.setFqStatus i).cq = s.cq := rfl
@[simp] theorem State.setFqStatus_fq (s : State) (i : Nat) : (s.setFqStatus i).fq = { s.fq with csr := withBit s.fq.csr i true } := rfl
@[simp] theorem State.setFqStatus_pq (s : State) (i : Nat) : (s.setFqStatus i).pq = s.pq := rfl
@[simp] theorem State.setFqStatus_ipsr (s : State) (i : Nat) : (s.setFqStatus i).ipsr = s.ipsr := rfl
@[simp] theorem State.setFqStatus_icvec (s : State) (i : Nat) : (s.setFqStatus i).icvec = s.icvec := rfl
@[simp] theorem State.setFqStatus_msi (s : State) (i : Nat) : (s.setFqStatus i).msi = s.msi := rfl
@[simp] theorem State.setFqStatus_pba (s : State) (i : Nat) : (s.setFqStatus i).pba = s.pba := rfl
@[simp] theorem State.setFqStatus_ddtMode (s : State) (i : Nat) : (s.setFqStatus i).ddtMode = s.ddtMode := rfl
@[simp] theorem State.setFqStatus_ddtBase (s : State) (i : Nat) : (s.setFqStatus i).ddtBase = s.ddtBase := rfl
@[simp] theorem State.setFqStatus_cqDoorbell (s : State) (i : Nat) : (s.setFqStatus i).cqDoorbell = s.cqDoorbell := rfl
@[simp] theorem State.setFqStatus_cqDraining (s : State) (i : Nat) : (s.setFqStatus i).cqDraining = s.cqDraining := rfl
@[simp] theorem State.setFqStatus_das (s : State) (i : Nat) : (s.setFqStatus i).das = s.das := rfl
@[simp] theorem State.setFqStatus_mem (s : State) (i : Nat) : (s.setFqStatus i).mem = s.mem := rfl
@[simp] theorem State.setFqStatus_noRead (s : State) (i : Nat) : (s.setFqStatus i).noRead = s.noRead := rfl
@[simp] theorem State.setFqStatus_noWrite (s : State) (i : Nat) : (s.setFqStatus i).noWrite = s.noWrite := rfl
@[simp] theorem State.setFqStatus_flights (s : State) (i : Nat) : (s.setFqStatus i).flights = s.flights := rfl
@[simp] theorem State.setFqStatus_nextTag (s : State) (i : Nat) : (s.setFqStatus i).nextTag = s.nextTag := rfl
@[simp] theorem State.setFqStatus_draws (s : State) (i : Nat) : (s.setFqStatus i).draws = s.draws := rfl
@[simp] theorem State.setFqStatus_agenda (s : State) (i : Nat) : (s.setFqStatus i).agenda = s.agenda := rfl
@[simp] theorem State.setFqStatus_outbox (s : State) (i : Nat) : (s.setFqStatus i).outbox = s.outbox := rfl

/-! ### fillCache -/

@[simp] theorem State.fillCache_cfg (s : State) (did : Word) (dc : DC) : (s.fillCache did dc).cfg = s.cfg := rfl
@[simp] theorem State.fillCache_ddtp (s : State) (did : Word) (dc : DC) : (s.fillCache did dc).ddtp = s.ddtp := rfl
@[simp] theorem State.fillCache_cq (s : State) (did : Word) (dc : DC) : (s.fillCache did dc).cq = s.cq := rfl
@[simp] theorem State.fillCache_fq (s : State) (did : Word) (dc : DC) : (s.fillCache did dc).fq = s.fq := rfl
@[simp] theorem State.fillCache_pq (s : State) (did : Word) (dc : DC) : (s.fillCache did dc).pq = s.pq := rfl
@[simp] theorem State.fillCache_ipsr (s : State) (did : Word) (dc : DC) : (s.fillCache did dc).ipsr = s.ipsr := rfl
@[simp] theorem State.fillCache_icvec (s : State) (did : Word) (dc : DC) : (s.fillCache did dc).icvec = s.icvec := rfl
@[simp] theorem State.fillCache_msi (s : State) (did : Word) (dc : DC) : (s.fillCache did dc).msi = s.msi := rfl
@[simp] theorem State.fillCache_pba (s : State) (did : Word) (dc : DC) : (s.fillCache did dc).pba = s.pba := rfl
@[simp] theorem State.fillCache_ddtMode (s : State) (did : Word) (dc : DC) : (s.fillCache did dc).ddtMode = s.ddtMode := rfl
@[simp] theorem State.fillCache_ddtBase (s : State) (did : Word) (dc : DC) : (s.fillCache did dc).ddtBase = s.ddtBase := rfl
@[simp] theorem State.fillCache_cqDoorbell (s : State) (did : Word) (dc : DC) : (s.fillCache did dc).cqDoorbell = s.cqDoorbell := rfl
@[simp] theorem State.fillCache_cqDraining (s : State) (did : Word) (dc : DC) : (s.fillCache did dc).cqDraining = s.cqDraining := rfl
@[simp] theorem State.fillCache_das (s : State) (did : Word) (dc : DC) : (s.fillCache did dc).das = s.das.put { did := did, dc := dc, valid := true } := rfl
@[simp] theorem State.fillCache_mem (s : State) (did : Word) (dc : DC) : (s.fillCache did dc).mem = s.mem := rfl
@[simp] theorem State.fillCache_noRead (s : State) (did : Word) (dc : DC) : (s.fillCache did dc).noRead = s.noRead := rfl
@[simp] theorem State.fillCache_noWrite (s : State) (did : Word) (dc : DC) : (s.fillCache did dc).noWrite = s.noWrite := rfl
@[simp] theorem State.fillCache_flights (s : State) (did : Word) (dc : DC) : (s.fillCache did dc).flights = s.flights := rfl
@[simp] theorem State.fillCache_nextTag (s : State) (did : Word) (dc : DC) : (s.fillCache did dc).nextTag = s.nextTag := rfl
@[simp] theorem State.fillCache_draws (s : State) (did : Word) (dc : DC) : (s.fillCache did dc).draws = s.draws := rfl
@[simp] theorem State.fillCache_agenda (s : State) (did : Word) (dc : DC) : (s.fillCache did dc).agenda = s.agenda := rfl
@[simp] theorem State.fillCache_outbox (s : State) (did : Word) (dc : DC) : (s.fillCache did dc).outbox = s.outbox := rfl

/-! ### touchCache -/

@[simp] theorem State.touchCache_cfg (s : State) (did : Word) : (s.touchCache did).cfg = s.cfg := rfl
@[simp] theorem State.touchCache_ddtp (s : State) (did : Word) : (s.touchCache did).ddtp = s.ddtp := rfl
@[simp] theorem State.touchCache_cq (s : State) (did : Word) : (s.touchCache did).cq = s.cq := rfl
@[simp] theorem State.touchCache_fq (s : State) (did : Word) : (s.touchCache did).fq = s.fq := rfl
@[simp] theorem State.touchCache_pq (s : State) (did : Word) : (s.touchCache did).pq = s.pq := rfl
@[simp] theorem State.touchCache_ipsr (s : State) (did : Word) : (s.touchCache did).ipsr = s.ipsr := rfl
@[simp] theorem State.touchCache_icvec (s : State) (did : Word) : (s.touchCache did).icvec = s.icvec := rfl
@[simp] theorem State.touchCache_msi (s : State) (did : Word) : (s.touchCache did).msi = s.msi := rfl
@[simp] theorem State.touchCache_pba (s : State) (did : Word) : (s.touchCache did).pba = s.pba := rfl
@[simp] theorem State.touchCache_ddtMode (s : State) (did : Word) : (s.touchCache did).ddtMode = s.ddtMode := rfl
@[simp] theorem State.touchCache_ddtBase (s : State) (did : Word) : (s.touchCache did).ddtBase = s.ddtBase := rfl
@[simp] theorem State.touchCache_cqDoorbell (s : State) (did : Word) : (s.touchCache did).cqDoorbell = s.cqDoorbell := rfl
@[simp] theorem State.touchCache_cqDraining (s : State) (did : Word) : (s.touchCache did).cqDraining = s.cqDraining := rfl
@[simp] theorem State.touchCache_das (s : State) (did : Word) : (s.touchCache did).das = s.das.touch did := rfl
@[simp] theorem State.touchCache_mem (s : State) (did : Word) : (s.touchCache did).mem = s.mem := rfl
@[simp] theorem State.touchCache_noRead (s : State) (did : Word) : (s.touchCache did).noRead = s.noRead := rfl
@[simp] theorem State.touchCache_noWrite (s : State) (did : Word) : (s.touchCache did).noWrite = s.noWrite := rfl
@[simp] theorem State.touchCache_flights (s : State) (did : Word) : (s.touchCache did).flights = s.flights := rfl
@[simp] theorem State.touchCache_nextTag (s : State) (did : Word) : (s.touchCache did).nextTag = s.nextTag := rfl
@[simp] theorem State.touchCache_draws (s : State) (did : Word) : (s.touchCache did).draws = s.draws := rfl
@[simp] theorem State.touchCache_agenda (s : State) (did : Word) : (s.touchCache did).agenda = s.agenda := rfl
@[simp] theorem State.touchCache_outbox (s : State) (did : Word) : (s.touchCache did).outbox = s.outbox := rfl

/-! ### startDrain -/

@[simp] theorem State.startDrain_cfg (s : State) : (s.startDrain).cfg = s.cfg := rfl
@[simp] theorem State.startDrain_ddtp (s : State) : (s.startDrain).ddtp = s.ddtp := rfl
@[simp] theorem State.startDrain_cq (s : State) : (s.startDrain).cq = s.cq := rfl
@[simp] theorem State.startDrain_fq (s : State) : (s.startDrain).fq = s.fq := rfl
@[simp] theorem State.startDrain_pq (s : State) : (s.startDrain).pq = s.pq := rfl
@[simp] theorem State.startDrain_ipsr (s : State) : (s.startDrain).ipsr = s.ipsr := rfl
@[simp] theorem State.startDrain_icvec (s : State) : (s.startDrain).icvec = s.icvec := rfl
@[simp] theorem State.startDrain_msi (s : State) : (s.startDrain).msi = s.msi := rfl
@[simp] theorem State.startDrain_pba (s : State) : (s.startDrain).pba = s.pba := rfl
@[simp] theorem State.startDrain_ddtMode (s : State) : (s.startDrain).ddtMode = s.ddtMode := rfl
@[simp] theorem State.startDrain_ddtBase (s : State) : (s.startDrain).ddtBase = s.ddtBase := rfl
@[simp] theorem State.startDrain_cqDoorbell (s : State) : (s.startDrain).cqDoorbell = false := rfl
@[simp] theorem State.startDrain_cqDraining (s : State) : (s.startDrain).cqDraining = (drainAllowed s.cq.csr || s.cqDraining) := rfl
@[simp] theorem State.startDrain_das (s : State) : (s.startDrain).das = s.das := rfl
@[simp] theorem State.startDrain_mem (s : State) : (s.startDrain).mem = s.mem := rfl
@[simp] theorem State.startDrain_noRead (s : State) : (s.startDrain).noRead = s.noRead := rfl
@[simp] theorem State.startDrain_noWrite (s : State) : (s.startDrain).noWrite = s.noWrite := rfl
@[simp] theorem State.startDrain_flights (s : State) : (s.startDrain).flights = s.flights := rfl
@[simp] theorem State.startDrain_nextTag (s : State) : (s.startDrain).nextTag = s.nextTag := rfl
@[simp] theorem State.startDrain_draws (s : State) : (s.startDrain).draws = s.draws := rfl
@[simp] theorem State.startDrain_agenda (s : State) : (s.startDrain).agenda = s.agenda := rfl
@[simp] theorem State.startDrain_outbox (s : State) : (s.startDrain).outbox = s.outbox := rfl

/-! ### rejectDdtp -/

@[simp] theorem State.rejectDdtp_cfg (s : State) : (s.rejectDdtp).cfg = s.cfg := rfl
@[simp] theorem State.rejectDdtp_cq (s : State) : (s.rejectDdtp).cq = s.cq := rfl
@[simp] theorem State.rejectDdtp_fq (s : State) : (s.rejectDdtp).fq = s.fq := rfl
@[simp] theorem State.rejectDdtp_pq (s : State) : (s.rejectDdtp).pq = s.pq := rfl
@[simp] theorem State.rejectDdtp_ipsr (s : State) : (s.rejectDdtp).ipsr = s.ipsr := rfl
@[simp] theorem State.rejectDdtp_icvec (s : State) : (s.rejectDdtp).icvec = s.icvec := rfl
@[simp] theorem State.rejectDdtp_msi (s : State) : (s.rejectDdtp).msi = s.msi := rfl
@[simp] theorem State.rejectDdtp_pba (s : State) : (s.rejectDdtp).pba = s.pba := rfl
@[simp] theorem State.rejectDdtp_ddtMode (s : State) : (s.rejectDdtp).ddtMode = s.ddtMode := rfl
@[simp] theorem State.rejectDdtp_ddtBase (s : State) : (s.rejectDdtp).ddtBase = s.ddtBase := rfl
@[simp] theorem State.rejectDdtp_cqDoorbell (s : State) : (s.rejectDdtp).cqDoorbell = s.cqDoorbell := rfl
@[simp] theorem State.rejectDdtp_cqDraining (s : State) : (s.rejectDdtp).cqDraining = s.cqDraining := rfl
@[simp] theorem State.rejectDdtp_das (s : State) : (s.rejectDdtp).das = s.das := rfl
@[simp] theorem State.rejectDdtp_mem (s : State) : (s.rejectDdtp).mem = s.mem := rfl
@[simp] theorem State.rejectDdtp_noRead (s : State) : (s.rejectDdtp).noRead = s.noRead := rfl
@[simp] theorem State.rejectDdtp_noWrite (s : State) : (s.rejectDdtp).noWrite = s.noWrite := rfl
@[simp] theorem State.rejectDdtp_flights (s : State) : (s.rejectDdtp).flights = s.flights := rfl
@[simp] theorem State.rejectDdtp_nextTag (s : State) : (s.rejectDdtp).nextTag = s.nextTag := rfl
@[simp] theorem State.rejectDdtp_draws (s : State) : (s.rejectDdtp).draws = s.draws := rfl
@[simp] theorem State.rejectDdtp_agenda (s : State) : (s.rejectDdtp).agenda = s.agenda := rfl
@[simp] theorem State.rejectDdtp_outbox (s : State) : (s.rejectDdtp).outbox = s.outbox := rfl

/-! ### adoptDdtp -/

@[simp] theorem State.adoptDdtp_cfg (s : State) (m : DdtMode) : (s.adoptDdtp m).cfg = s.cfg := rfl
@[simp] theorem State.adoptDdtp_ddtp (s : State) (m : DdtMode) : (s.adoptDdtp m).ddtp = withBit s.ddtp ddtpBusyBit false := rfl
@[simp] theorem State.adoptDdtp_cq (s : State) (m : DdtMode) : (s.adoptDdtp m).cq = s.cq := rfl
@[simp] theorem State.adoptDdtp_fq (s : State) (m : DdtMode) : (s.adoptDdtp m).fq = s.fq := rfl
@[simp] theorem State.adoptDdtp_pq (s : State) (m : DdtMode) : (s.adoptDdtp m).pq = s.pq := rfl
@[simp] theorem State.adoptDdtp_ipsr (s : State) (m : DdtMode) : (s.adoptDdtp m).ipsr = s.ipsr := rfl
@[simp] theorem State.adoptDdtp_icvec (s : State) (m : DdtMode) : (s.adoptDdtp m).icvec = s.icvec := rfl
@[simp] theorem State.adoptDdtp_msi (s : State) (m : DdtMode) : (s.adoptDdtp m).msi = s.msi := rfl
@[simp] theorem State.adoptDdtp_pba (s : State) (m : DdtMode) : (s.adoptDdtp m).pba = s.pba := rfl
@[simp] theorem State.adoptDdtp_ddtMode (s : State) (m : DdtMode) : (s.adoptDdtp m).ddtMode = m := rfl
@[simp] theorem State.adoptDdtp_ddtBase (s : State) (m : DdtMode) : (s.adoptDdtp m).ddtBase = pageAddr (ddtpPpn s.ddtp) := rfl
@[simp] theorem State.adoptDdtp_cqDoorbell (s : State) (m : DdtMode) : (s.adoptDdtp m).cqDoorbell = s.cqDoorbell := rfl
@[simp] theorem State.adoptDdtp_cqDraining (s : State) (m : DdtMode) : (s.adoptDdtp m).cqDraining = s.cqDraining := rfl
@[simp] theorem State.adoptDdtp_mem (s : State) (m : DdtMode) : (s.adoptDdtp m).mem = s.mem := rfl
@[simp] theorem State.adoptDdtp_noRead (s : State) (m : DdtMode) : (s.adoptDdtp m).noRead = s.noRead := rfl
@[simp] theorem State.adoptDdtp_noWrite (s : State) (m : DdtMode) : (s.adoptDdtp m).noWrite = s.noWrite := rfl
@[simp] theorem State.adoptDdtp_flights (s : State) (m : DdtMode) : (s.adoptDdtp m).flights = s.flights := rfl
@[simp] theorem State.adoptDdtp_nextTag (s : State) (m : DdtMode) : (s.adoptDdtp m).nextTag = s.nextTag := rfl
@[simp] theorem State.adoptDdtp_draws (s : State) (m : DdtMode) : (s.adoptDdtp m).draws = s.draws := rfl
@[simp] theorem State.adoptDdtp_agenda (s : State) (m : DdtMode) : (s.adoptDdtp m).agenda = s.agenda := rfl
@[simp] theorem State.adoptDdtp_outbox (s : State) (m : DdtMode) : (s.adoptDdtp m).outbox = s.outbox := rfl

/-! ### ddtpStep -/

/-- All that a DDTP step can change (R290, R291). -/
theorem State.ddtpStep_eq (s : State) :
    s.ddtpStep =
      { s with
        ddtp := s.ddtpStep.ddtp
        ddtMode := s.ddtpStep.ddtMode
        ddtBase := s.ddtpStep.ddtBase
        das := s.ddtpStep.das } := by
  unfold State.ddtpStep
  split
  · split <;> rfl
  · rfl

@[simp] theorem State.ddtpStep_cfg (s : State) : (s.ddtpStep).cfg = s.cfg := by
  unfold State.ddtpStep; split <;> [split; skip] <;> simp
@[simp] theorem State.ddtpStep_cq (s : State) : (s.ddtpStep).cq = s.cq := by
  unfold State.ddtpStep; split <;> [split; skip] <;> simp
@[simp] theorem State.ddtpStep_fq (s : State) : (s.ddtpStep).fq = s.fq := by
  unfold State.ddtpStep; split <;> [split; skip] <;> simp
@[simp] theorem State.ddtpStep_pq (s : State) : (s.ddtpStep).pq = s.pq := by
  unfold State.ddtpStep; split <;> [split; skip] <;> simp
@[simp] theorem State.ddtpStep_ipsr (s : State) : (s.ddtpStep).ipsr = s.ipsr := by
  unfold State.ddtpStep; split <;> [split; skip] <;> simp
@[simp] theorem State.ddtpStep_icvec (s : State) : (s.ddtpStep).icvec = s.icvec := by
  unfold State.ddtpStep; split <;> [split; skip] <;> simp
@[simp] theorem State.ddtpStep_msi (s : State) : (s.ddtpStep).msi = s.msi := by
  unfold State.ddtpStep; split <;> [split; skip] <;> simp
@[simp] theorem State.ddtpStep_pba (s : State) : (s.ddtpStep).pba = s.pba := by
  unfold State.ddtpStep; split <;> [split; skip] <;> simp
@[simp] theorem State.ddtpStep_cqDoorbell (s : State) : (s.ddtpStep).cqDoorbell = s.cqDoorbell := by
  unfold State.ddtpStep; split <;> [split; skip] <;> simp
@[simp] theorem State.ddtpStep_cqDraining (s : State) : (s.ddtpStep).cqDraining = s.cqDraining := by
  unfold State.ddtpStep; split <;> [split; skip] <;> simp
@[simp] theorem State.ddtpStep_mem (s : State) : (s.ddtpStep).mem = s.mem := by
  unfold State.ddtpStep; split <;> [split; skip] <;> simp
@[simp] theorem State.ddtpStep_noRead (s : State) : (s.ddtpStep).noRead = s.noRead := by
  unfold State.ddtpStep; split <;> [split; skip] <;> simp
@[simp] theorem State.ddtpStep_noWrite (s : State) : (s.ddtpStep).noWrite = s.noWrite := by
  unfold State.ddtpStep; split <;> [split; skip] <;> simp
@[simp] theorem State.ddtpStep_flights (s : State) : (s.ddtpStep).flights = s.flights := by
  unfold State.ddtpStep; split <;> [split; skip] <;> simp
@[simp] theorem State.ddtpStep_nextTag (s : State) : (s.ddtpStep).nextTag = s.nextTag := by
  unfold State.ddtpStep; split <;> [split; skip] <;> simp
@[simp] theorem State.ddtpStep_draws (s : State) : (s.ddtpStep).draws = s.draws := by
  unfold State.ddtpStep; split <;> [split; skip] <;> simp
@[simp] theorem State.ddtpStep_agenda (s : State) : (s.ddtpStep).agenda = s.agenda := by
  unfold State.ddtpStep; split <;> [split; skip] <;> simp
@[simp] theorem State.ddtpStep_outbox (s : State) : (s.ddtpStep).outbox = s.outbox := by
  unfold State.ddtpStep; split <;> [split; skip] <;> simp

/-! ### notify -/

@[simp] theorem State.notify_cfg (s : State) (v : Nat) : (s.notify v).cfg = s.cfg := by
  unfold State.notify; split <;> simp
@[simp] theorem State.notify_ddtp (s : State) (v : Nat) : (s.notify v).ddtp = s.ddtp := by
  unfold State.notify; split <;> simp
@[simp] theorem State.notify_cq (s : State) (v : Nat) : (s.notify v).cq = s.cq := by
  unfold State.notify; split <;> simp
@[simp] theorem State.notify_fq (s : State) (v : Nat) : (s.notify v).fq = s.fq := by
  unfold State.notify; split <;> simp
@[simp] theorem State.notify_pq (s : State) (v : Nat) : (s.notify v).pq = s.pq := by
  unfold State.notify; split <;> simp
@[simp] theorem State.notify_ipsr (s : State) (v : Nat) : (s.notify v).ipsr = s.ipsr := by
  unfold State.notify; split <;> simp
@[simp] theorem State.notify_icvec (s : State) (v : Nat) : (s.notify v).icvec = s.icvec := by
  unfold State.notify; split <;> simp
@[simp] theorem State.notify_msi (s : State) (v : Nat) : (s.notify v).msi = s.msi := by
  unfold State.notify; split <;> simp
@[simp] theorem State.notify_pba (s : State) (v : Nat) : (s.notify v).pba = s.pba := by
  unfold State.notify; split <;> simp
@[simp] theorem State.notify_ddtMode (s : State) (v : Nat) : (s.notify v).ddtMode = s.ddtMode := by
  unfold State.notify; split <;> simp
@[simp] theorem State.notify_ddtBase (s : State) (v : Nat) : (s.notify v).ddtBase = s.ddtBase := by
  unfold State.notify; split <;> simp
@[simp] theorem State.notify_cqDoorbell (s : State) (v : Nat) : (s.notify v).cqDoorbell = s.cqDoorbell := by
  unfold State.notify; split <;> simp
@[simp] theorem State.notify_cqDraining (s : State) (v : Nat) : (s.notify v).cqDraining = s.cqDraining := by
  unfold State.notify; split <;> simp
@[simp] theorem State.notify_das (s : State) (v : Nat) : (s.notify v).das = s.das := by
  unfold State.notify; split <;> simp
@[simp] theorem State.notify_mem (s : State) (v : Nat) : (s.notify v).mem = s.mem := by
  unfold State.notify; split <;> simp
@[simp] theorem State.notify_noRead (s : State) (v : Nat) : (s.notify v).noRead = s.noRead := by
  unfold State.notify; split <;> simp
@[simp] theorem State.notify_noWrite (s : State) (v : Nat) : (s.notify v).noWrite = s.noWrite := by
  unfold State.notify; split <;> simp
@[simp] theorem State.notify_flights (s : State) (v : Nat) : (s.notify v).flights = s.flights := by
  unfold State.notify; split <;> simp
@[simp] theorem State.notify_nextTag (s : State) (v : Nat) : (s.notify v).nextTag = s.nextTag := by
  unfold State.notify; split <;> simp
@[simp] theorem State.notify_draws (s : State) (v : Nat) : (s.notify v).draws = s.draws := by
  unfold State.notify; split <;> simp
@[simp] theorem State.notify_agenda (s : State) (v : Nat) : (s.notify v).agenda = s.agenda := by
  unfold State.notify; split <;> simp

/-! ### raiseInterrupt -/

@[simp] theorem State.raiseInterrupt_cfg (s : State) (q : QueueId) : (s.raiseInterrupt q).cfg = s.cfg := by
  unfold State.raiseInterrupt; dsimp only; split <;> simp
@[simp] theorem State.raiseInterrupt_ddtp (s : State) (q : QueueId) : (s.raiseInterrupt q).ddtp = s.ddtp := by
  unfold State.raiseInterrupt; dsimp only; split <;> simp
@[simp] theorem State.raiseInterrupt_cq (s : State) (q : QueueId) : (s.raiseInterrupt q).cq = s.cq := by
  unfold State.raiseInterrupt; dsimp only; split <;> simp
@[simp] theorem State.raiseInterrupt_fq (s : State) (q : QueueId) : (s.raiseInterrupt q).fq = s.fq := by
  unfold State.raiseInterrupt; dsimp only; split <;> simp
@[simp] theorem State.raiseInterrupt_pq (s : State) (q : QueueId) : (s.raiseInterrupt q).pq = s.pq := by
  unfold State.raiseInterrupt; dsimp only; split <;> simp
@[simp] theorem State.raiseInterrupt_ipsr (s : State) (q : QueueId) : (s.raiseInterrupt q).ipsr = withBit s.ipsr (pendingBit q) true := by
  unfold State.raiseInterrupt; dsimp only; split <;> simp
@[simp] theorem State.raiseInterrupt_icvec (s : State) (q : QueueId) : (s.raiseInterrupt q).icvec = s.icvec := by
  unfold State.raiseInterrupt; dsimp only; split <;> simp
@[simp] theorem State.raiseInterrupt_msi (s : State) (q : QueueId) : (s.raiseInterrupt q).msi = s.msi := by
  unfold State.raiseInterrupt; dsimp only; split <;> simp
@[simp] theorem State.raiseInterrupt_pba (s : State) (q : QueueId) : (s.raiseInterrupt q).pba = s.pba := by
  unfold State.raiseInterrupt; dsimp only; split <;> simp
@[simp] theorem State.raiseInterrupt_ddtMode (s : State) (q : QueueId) : (s.raiseInterrupt q).ddtMode = s.ddtMode := by
  unfold State.raiseInterrupt; dsimp only; split <;> simp
@[simp] theorem State.raiseInterrupt_ddtBase (s : State) (q : QueueId) : (s.raiseInterrupt q).ddtBase = s.ddtBase := by
  unfold State.raiseInterrupt; dsimp only; split <;> simp
@[simp] theorem State.raiseInterrupt_cqDoorbell (s : State) (q : QueueId) : (s.raiseInterrupt q).cqDoorbell = s.cqDoorbell := by
  unfold State.raiseInterrupt; dsimp only; split <;> simp
@[simp] theorem State.raiseInterrupt_cqDraining (s : State) (q : QueueId) : (s.raiseInterrupt q).cqDraining = s.cqDraining := by
  unfold State.raiseInterrupt; dsimp only; split <;> simp
@[simp] theorem State.raiseInterrupt_das (s : State) (q : QueueId) : (s.raiseInterrupt q).das = s.das := by
  unfold State.raiseInterrupt; dsimp only; split <;> simp
@[simp] theorem State.raiseInterrupt_mem (s : State) (q : QueueId) : (s.raiseInterrupt q).mem = s.mem := by
  unfold State.raiseInterrupt; dsimp only; split <;> simp
@[simp] theorem State.raiseInterrupt_noRead (s : State) (q : QueueId) : (s.raiseInterrupt q).noRead = s.noRead := by
  unfold State.raiseInterrupt; dsimp only; split <;> simp
@[simp] theorem State.raiseInterrupt_noWrite (s : State) (q : QueueId) : (s.raiseInterrupt q).noWrite = s.noWrite := by
  unfold State.raiseInterrupt; dsimp only; split <;> simp
@[simp] theorem State.raiseInterrupt_flights (s : State) (q : QueueId) : (s.raiseInterrupt q).flights = s.flights := by
  unfold State.raiseInterrupt; dsimp only; split <;> simp
@[simp] theorem State.raiseInterrupt_nextTag (s : State) (q : QueueId) : (s.raiseInterrupt q).nextTag = s.nextTag := by
  unfold State.raiseInterrupt; dsimp only; split <;> simp
@[simp] theorem State.raiseInterrupt_draws (s : State) (q : QueueId) : (s.raiseInterrupt q).draws = s.draws := by
  unfold State.raiseInterrupt; dsimp only; split <;> simp
@[simp] theorem State.raiseInterrupt_agenda (s : State) (q : QueueId) : (s.raiseInterrupt q).agenda = s.agenda := by
  unfold State.raiseInterrupt; dsimp only; split <;> simp

/-! ### endDrain -/

@[simp] theorem State.endDrain_cfg (s : State) : (s.endDrain).cfg = s.cfg := by
  unfold State.endDrain; dsimp only; split <;> simp
@[simp] theorem State.endDrain_ddtp (s : State) : (s.endDrain).ddtp = s.ddtp := by
  unfold State.endDrain; dsimp only; split <;> simp
@[simp] theorem State.endDrain_cq (s : State) : (s.endDrain).cq = s.cq := by
  unfold State.endDrain; dsimp only; split <;> simp
@[simp] theorem State.endDrain_fq (s : State) : (s.endDrain).fq = s.fq := by
  unfold State.endDrain; dsimp only; split <;> simp
@[simp] theorem State.endDrain_pq (s : State) : (s.endDrain).pq = s.pq := by
  unfold State.endDrain; dsimp only; split <;> simp
@[simp] theorem State.endDrain_icvec (s : State) : (s.endDrain).icvec = s.icvec := by
  unfold State.endDrain; dsimp only; split <;> simp
@[simp] theorem State.endDrain_msi (s : State) : (s.endDrain).msi = s.msi := by
  unfold State.endDrain; dsimp only; split <;> simp
@[simp] theorem State.endDrain_pba (s : State) : (s.endDrain).pba = s.pba := by
  unfold State.endDrain; dsimp only; split <;> simp
@[simp] theorem State.endDrain_ddtMode (s : State) : (s.endDrain).ddtMode = s.ddtMode := by
  unfold State.endDrain; dsimp only; split <;> simp
@[simp] theorem State.endDrain_ddtBase (s : State) : (s.endDrain).ddtBase = s.ddtBase := by
  unfold State.endDrain; dsimp only; split <;> simp
@[simp] theorem State.endDrain_cqDoorbell (s : State) : (s.endDrain).cqDoorbell = s.cqDoorbell := by
  unfold State.endDrain; dsimp only; split <;> simp
@[simp] theorem State.endDrain_cqDraining (s : State) : (s.endDrain).cqDraining = false := by
  unfold State.endDrain; dsimp only; split <;> simp
@[simp] theorem State.endDrain_das (s : State) : (s.endDrain).das = s.das := by
  unfold State.endDrain; dsimp only; split <;> simp
@[simp] theorem State.endDrain_mem (s : State) : (s.endDrain).mem = s.mem := by
  unfold State.endDrain; dsimp only; split <;> simp
@[simp] theorem State.endDrain_noRead (s : State) : (s.endDrain).noRead = s.noRead := by
  unfold State.endDrain; dsimp only; split <;> simp
@[simp] theorem State.endDrain_noWrite (s : State) : (s.endDrain).noWrite = s.noWrite := by
  unfold State.endDrain; dsimp only; split <;> simp
@[simp] theorem State.endDrain_flights (s : State) : (s.endDrain).flights = s.flights := by
  unfold State.endDrain; dsimp only; split <;> simp
@[simp] theorem State.endDrain_nextTag (s : State) : (s.endDrain).nextTag = s.nextTag := by
  unfold State.endDrain; dsimp only; split <;> simp
@[simp] theorem State.endDrain_draws (s : State) : (s.endDrain).draws = s.draws := by
  unfold State.endDrain; dsimp only; split <;> simp
@[simp] theorem State.endDrain_agenda (s : State) : (s.endDrain).agenda = s.agenda := by
  unfold State.endDrain; dsimp only; split <;> simp

/-! ### stopDrain -/

@[simp] theorem State.stopDrain_cfg (s : State) (i : Nat) : (s.stopDrain i).cfg = s.cfg := by
  simp [State.stopDrain]
@[simp] theorem State.stopDrain_ddtp (s : State) (i : Nat) : (s.stopDrain i).ddtp = s.ddtp := by
  simp [State.stopDrain]
@[simp] theorem State.stopDrain_cq (s : State) (i : Nat) : (s.stopDrain i).cq = { s.cq with csr := withBit s.cq.csr i true } := by
  simp [State.stopDrain]
@[simp] theorem State.stopDrain_fq (s : State) (i : Nat) : (s.stopDrain i).fq = s.fq := by
  simp [State.stopDrain]
@[simp] theorem State.stopDrain_pq (s : State) (i : Nat) : (s.stopDrain i).pq = s.pq := by
  simp [State.stopDrain]
@[simp] theorem State.stopDrain_icvec (s : State) (i : Nat) : (s.stopDrain i).icvec = s.icvec := by
  simp [State.stopDrain]
@[simp] theorem State.stopDrain_msi (s : State) (i : Nat) : (s.stopDrain i).msi = s.msi := by
  simp [State.stopDrain]
@[simp] theorem State.stopDrain_pba (s : State) (i : Nat) : (s.stopDrain i).pba = s.pba := by
  simp [State.stopDrain]
@[simp] theorem State.stopDrain_ddtMode (s : State) (i : Nat) : (s.stopDrain i).ddtMode = s.ddtMode := by
  simp [State.stopDrain]
@[simp] theorem State.stopDrain_ddtBase (s : State) (i : Nat) : (s.stopDrain i).ddtBase = s.ddtBase := by
  simp [State.stopDrain]
@[simp] theorem State.stopDrain_cqDoorbell (s : State) (i : Nat) : (s.stopDrain i).cqDoorbell = s.cqDoorbell := by
  simp [State.stopDrain]
@[simp] theorem State.stopDrain_cqDraining (s : State) (i : Nat) : (s.stopDrain i).cqDraining = false := by
  simp [State.stopDrain]
@[simp] theorem State.stopDrain_das (s : State) (i : Nat) : (s.stopDrain i).das = s.das := by
  simp [State.stopDrain]
@[simp] theorem State.stopDrain_mem (s : State) (i : Nat) : (s.stopDrain i).mem = s.mem := by
  simp [State.stopDrain]
@[simp] theorem State.stopDrain_noRead (s : State) (i : Nat) : (s.stopDrain i).noRead = s.noRead := by
  simp [State.stopDrain]
@[simp] theorem State.stopDrain_noWrite (s : State) (i : Nat) : (s.stopDrain i).noWrite = s.noWrite := by
  simp [State.stopDrain]
@[simp] theorem State.stopDrain_flights (s : State) (i : Nat) : (s.stopDrain i).flights = s.flights := by
  simp [State.stopDrain]
@[simp] theorem State.stopDrain_nextTag (s : State) (i : Nat) : (s.stopDrain i).nextTag = s.nextTag := by
  simp [State.stopDrain]
@[simp] theorem State.stopDrain_draws (s : State) (i : Nat) : (s.stopDrain i).draws = s.draws := by
  simp [State.stopDrain]
@[simp] theorem State.stopDrain_agenda (s : State) (i : Nat) : (s.stopDrain i).agenda = s.agenda := by
  simp [State.stopDrain]

/-! ### recordWritten -/

@[simp] theorem State.recordWritten_cfg (s : State) : (s.recordWritten).cfg = s.cfg := by
  unfold State.recordWritten; dsimp only; split <;> simp
@[simp] theorem State.recordWritten_ddtp (s : State) : (s.recordWritten).ddtp = s.ddtp := by
  unfold State.recordWritten; dsimp only; split <;> simp
@[simp] theorem State.recordWritten_cq (s : State) : (s.recordWritten).cq = s.cq := by
  unfold State.recordWritten; dsimp only; split <;> simp
@[simp] theorem State.recordWritten_fq (s : State) : (s.recordWritten).fq = { s.fq with qt := (s.fq.next s.fq.tail).setWidth 32 } := by
  unfold State.recordWritten; dsimp only; split <;> simp
@[simp] theorem State.recordWritten_pq (s : State) : (s.recordWritten).pq = s.pq := by
  unfold State.recordWritten; dsimp only; split <;> simp
@[simp] theorem State.recordWritten_icvec (s : State) : (s.recordWritten).icvec = s.icvec := by
  unfold State.recordWritten; dsimp only; split <;> simp
@[simp] theorem State.recordWritten_msi (s : State) : (s.recordWritten).msi = s.msi := by
  unfold State.recordWritten; dsimp only; split <;> simp
@[simp] theorem State.recordWritten_pba (s : State) : (s.recordWritten).pba = s.pba := by
  unfold State.recordWritten; dsimp only; split <;> simp
@[simp] theorem State.recordWritten_ddtMode (s : State) : (s.recordWritten).ddtMode = s.ddtMode := by
  unfold State.recordWritten; dsimp only; split <;> simp
@[simp] theorem State.recordWritten_ddtBase (s : State) : (s.recordWritten).ddtBase = s.ddtBase := by
  unfold State.recordWritten; dsimp only; split <;> simp
@[simp] theorem State.recordWritten_cqDoorbell (s : State) : (s.recordWritten).cqDoorbell = s.cqDoorbell := by
  unfold State.recordWritten; dsimp only; split <;> simp
@[simp] theorem State.recordWritten_cqDraining (s : State) : (s.recordWritten).cqDraining = s.cqDraining := by
  unfold State.recordWritten; dsimp only; split <;> simp
@[simp] theorem State.recordWritten_das (s : State) : (s.recordWritten).das = s.das := by
  unfold State.recordWritten; dsimp only; split <;> simp
@[simp] theorem State.recordWritten_mem (s : State) : (s.recordWritten).mem = s.mem := by
  unfold State.recordWritten; dsimp only; split <;> simp
@[simp] theorem State.recordWritten_noRead (s : State) : (s.recordWritten).noRead = s.noRead := by
  unfold State.recordWritten; dsimp only; split <;> simp
@[simp] theorem State.recordWritten_noWrite (s : State) : (s.recordWritten).noWrite = s.noWrite := by
  unfold State.recordWritten; dsimp only; split <;> simp
@[simp] theorem State.recordWritten_flights (s : State) : (s.recordWritten).flights = s.flights := by
  unfold State.recordWritten; dsimp only; split <;> simp
@[simp] theorem State.recordWritten_nextTag (s : State) : (s.recordWritten).nextTag = s.nextTag := by
  unfold State.recordWritten; dsimp only; split <;> simp
@[simp] theorem State.recordWritten_draws (s : State) : (s.recordWritten).draws = s.draws := by
  unfold State.recordWritten; dsimp only; split <;> simp
@[simp] theorem State.recordWritten_agenda (s : State) : (s.recordWritten).agenda = s.agenda := by
  unfold State.recordWritten; dsimp only; split <;> simp

/-! ### report -/

@[simp] theorem State.report_cfg (s : State) (did : Word) (c : Cause) (t : BitVec 6) (iova phys : Word) : (s.report did c t iova phys).cfg = s.cfg := by
  unfold State.report; split <;> [skip; split <;> [skip; split]] <;> simp
@[simp] theorem State.report_ddtp (s : State) (did : Word) (c : Cause) (t : BitVec 6) (iova phys : Word) : (s.report did c t iova phys).ddtp = s.ddtp := by
  unfold State.report; split <;> [skip; split <;> [skip; split]] <;> simp
@[simp] theorem State.report_cq (s : State) (did : Word) (c : Cause) (t : BitVec 6) (iova phys : Word) : (s.report did c t iova phys).cq = s.cq := by
  unfold State.report; split <;> [skip; split <;> [skip; split]] <;> simp
@[simp] theorem State.report_pq (s : State) (did : Word) (c : Cause) (t : BitVec 6) (iova phys : Word) : (s.report did c t iova phys).pq = s.pq := by
  unfold State.report; split <;> [skip; split <;> [skip; split]] <;> simp
@[simp] theorem State.report_icvec (s : State) (did : Word) (c : Cause) (t : BitVec 6) (iova phys : Word) : (s.report did c t iova phys).icvec = s.icvec := by
  unfold State.report; split <;> [skip; split <;> [skip; split]] <;> simp
@[simp] theorem State.report_msi (s : State) (did : Word) (c : Cause) (t : BitVec 6) (iova phys : Word) : (s.report did c t iova phys).msi = s.msi := by
  unfold State.report; split <;> [skip; split <;> [skip; split]] <;> simp
@[simp] theorem State.report_pba (s : State) (did : Word) (c : Cause) (t : BitVec 6) (iova phys : Word) : (s.report did c t iova phys).pba = s.pba := by
  unfold State.report; split <;> [skip; split <;> [skip; split]] <;> simp
@[simp] theorem State.report_ddtMode (s : State) (did : Word) (c : Cause) (t : BitVec 6) (iova phys : Word) : (s.report did c t iova phys).ddtMode = s.ddtMode := by
  unfold State.report; split <;> [skip; split <;> [skip; split]] <;> simp
@[simp] theorem State.report_ddtBase (s : State) (did : Word) (c : Cause) (t : BitVec 6) (iova phys : Word) : (s.report did c t iova phys).ddtBase = s.ddtBase := by
  unfold State.report; split <;> [skip; split <;> [skip; split]] <;> simp
@[simp] theorem State.report_cqDoorbell (s : State) (did : Word) (c : Cause) (t : BitVec 6) (iova phys : Word) : (s.report did c t iova phys).cqDoorbell = s.cqDoorbell := by
  unfold State.report; split <;> [skip; split <;> [skip; split]] <;> simp
@[simp] theorem State.report_cqDraining (s : State) (did : Word) (c : Cause) (t : BitVec 6) (iova phys : Word) : (s.report did c t iova phys).cqDraining = s.cqDraining := by
  unfold State.report; split <;> [skip; split <;> [skip; split]] <;> simp
@[simp] theorem State.report_das (s : State) (did : Word) (c : Cause) (t : BitVec 6) (iova phys : Word) : (s.report did c t iova phys).das = s.das := by
  unfold State.report; split <;> [skip; split <;> [skip; split]] <;> simp
@[simp] theorem State.report_noRead (s : State) (did : Word) (c : Cause) (t : BitVec 6) (iova phys : Word) : (s.report did c t iova phys).noRead = s.noRead := by
  unfold State.report; split <;> [skip; split <;> [skip; split]] <;> simp
@[simp] theorem State.report_noWrite (s : State) (did : Word) (c : Cause) (t : BitVec 6) (iova phys : Word) : (s.report did c t iova phys).noWrite = s.noWrite := by
  unfold State.report; split <;> [skip; split <;> [skip; split]] <;> simp
@[simp] theorem State.report_flights (s : State) (did : Word) (c : Cause) (t : BitVec 6) (iova phys : Word) : (s.report did c t iova phys).flights = s.flights := by
  unfold State.report; split <;> [skip; split <;> [skip; split]] <;> simp
@[simp] theorem State.report_nextTag (s : State) (did : Word) (c : Cause) (t : BitVec 6) (iova phys : Word) : (s.report did c t iova phys).nextTag = s.nextTag := by
  unfold State.report; split <;> [skip; split <;> [skip; split]] <;> simp
@[simp] theorem State.report_agenda (s : State) (did : Word) (c : Cause) (t : BitVec 6) (iova phys : Word) : (s.report did c t iova phys).agenda = s.agenda := by
  unfold State.report; split <;> [skip; split <;> [skip; split]] <;> simp

/-! ### setQueue and csrStep -/

@[simp] theorem State.setQueue_cfg (s : State) (q : QueueId) (v : Queue) : (s.setQueue q v).cfg = s.cfg := by
  cases q <;> rfl
@[simp] theorem State.csrStep_cfg (s : State) (q : QueueId) : (s.csrStep q).cfg = s.cfg := by
  cases q <;> rfl
@[simp] theorem State.setQueue_ddtp (s : State) (q : QueueId) (v : Queue) : (s.setQueue q v).ddtp = s.ddtp := by
  cases q <;> rfl
@[simp] theorem State.csrStep_ddtp (s : State) (q : QueueId) : (s.csrStep q).ddtp = s.ddtp := by
  cases q <;> rfl
@[simp] theorem State.setQueue_ipsr (s : State) (q : QueueId) (v : Queue) : (s.setQueue q v).ipsr = s.ipsr := by
  cases q <;> rfl
@[simp] theorem State.csrStep_ipsr (s : State) (q : QueueId) : (s.csrStep q).ipsr = s.ipsr := by
  cases q <;> rfl
@[simp] theorem State.setQueue_icvec (s : State) (q : QueueId) (v : Queue) : (s.setQueue q v).icvec = s.icvec := by
  cases q <;> rfl
@[simp] theorem State.csrStep_icvec (s : State) (q : QueueId) : (s.csrStep q).icvec = s.icvec := by
  cases q <;> rfl
@[simp] theorem State.setQueue_msi (s : State) (q : QueueId) (v : Queue) : (s.setQueue q v).msi = s.msi := by
  cases q <;> rfl
@[simp] theorem State.csrStep_msi (s : State) (q : QueueId) : (s.csrStep q).msi = s.msi := by
  cases q <;> rfl
@[simp] theorem State.setQueue_pba (s : State) (q : QueueId) (v : Queue) : (s.setQueue q v).pba = s.pba := by
  cases q <;> rfl
@[simp] theorem State.csrStep_pba (s : State) (q : QueueId) : (s.csrStep q).pba = s.pba := by
  cases q <;> rfl
@[simp] theorem State.setQueue_ddtMode (s : State) (q : QueueId) (v : Queue) : (s.setQueue q v).ddtMode = s.ddtMode := by
  cases q <;> rfl
@[simp] theorem State.csrStep_ddtMode (s : State) (q : QueueId) : (s.csrStep q).ddtMode = s.ddtMode := by
  cases q <;> rfl
@[simp] theorem State.setQueue_ddtBase (s : State) (q : QueueId) (v : Queue) : (s.setQueue q v).ddtBase = s.ddtBase := by
  cases q <;> rfl
@[simp] theorem State.csrStep_ddtBase (s : State) (q : QueueId) : (s.csrStep q).ddtBase = s.ddtBase := by
  cases q <;> rfl
@[simp] theorem State.setQueue_cqDoorbell (s : State) (q : QueueId) (v : Queue) : (s.setQueue q v).cqDoorbell = s.cqDoorbell := by
  cases q <;> rfl
@[simp] theorem State.csrStep_cqDoorbell (s : State) (q : QueueId) : (s.csrStep q).cqDoorbell = s.cqDoorbell := by
  cases q <;> rfl
@[simp] theorem State.setQueue_cqDraining (s : State) (q : QueueId) (v : Queue) : (s.setQueue q v).cqDraining = s.cqDraining := by
  cases q <;> rfl
@[simp] theorem State.csrStep_cqDraining (s : State) (q : QueueId) : (s.csrStep q).cqDraining = s.cqDraining := by
  cases q <;> rfl
@[simp] theorem State.setQueue_das (s : State) (q : QueueId) (v : Queue) : (s.setQueue q v).das = s.das := by
  cases q <;> rfl
@[simp] theorem State.csrStep_das (s : State) (q : QueueId) : (s.csrStep q).das = s.das := by
  cases q <;> rfl
@[simp] theorem State.setQueue_mem (s : State) (q : QueueId) (v : Queue) : (s.setQueue q v).mem = s.mem := by
  cases q <;> rfl
@[simp] theorem State.csrStep_mem (s : State) (q : QueueId) : (s.csrStep q).mem = s.mem := by
  cases q <;> rfl
@[simp] theorem State.setQueue_noRead (s : State) (q : QueueId) (v : Queue) : (s.setQueue q v).noRead = s.noRead := by
  cases q <;> rfl
@[simp] theorem State.csrStep_noRead (s : State) (q : QueueId) : (s.csrStep q).noRead = s.noRead := by
  cases q <;> rfl
@[simp] theorem State.setQueue_noWrite (s : State) (q : QueueId) (v : Queue) : (s.setQueue q v).noWrite = s.noWrite := by
  cases q <;> rfl
@[simp] theorem State.csrStep_noWrite (s : State) (q : QueueId) : (s.csrStep q).noWrite = s.noWrite := by
  cases q <;> rfl
@[simp] theorem State.setQueue_flights (s : State) (q : QueueId) (v : Queue) : (s.setQueue q v).flights = s.flights := by
  cases q <;> rfl
@[simp] theorem State.csrStep_flights (s : State) (q : QueueId) : (s.csrStep q).flights = s.flights := by
  cases q <;> rfl
@[simp] theorem State.setQueue_nextTag (s : State) (q : QueueId) (v : Queue) : (s.setQueue q v).nextTag = s.nextTag := by
  cases q <;> rfl
@[simp] theorem State.csrStep_nextTag (s : State) (q : QueueId) : (s.csrStep q).nextTag = s.nextTag := by
  cases q <;> rfl
@[simp] theorem State.setQueue_draws (s : State) (q : QueueId) (v : Queue) : (s.setQueue q v).draws = s.draws := by
  cases q <;> rfl
@[simp] theorem State.csrStep_draws (s : State) (q : QueueId) : (s.csrStep q).draws = s.draws := by
  cases q <;> rfl
@[simp] theorem State.setQueue_agenda (s : State) (q : QueueId) (v : Queue) : (s.setQueue q v).agenda = s.agenda := by
  cases q <;> rfl
@[simp] theorem State.csrStep_agenda (s : State) (q : QueueId) : (s.csrStep q).agenda = s.agenda := by
  cases q <;> rfl
@[simp] theorem State.setQueue_outbox (s : State) (q : QueueId) (v : Queue) : (s.setQueue q v).outbox = s.outbox := by
  cases q <;> rfl
@[simp] theorem State.csrStep_outbox (s : State) (q : QueueId) : (s.csrStep q).outbox = s.outbox := by
  cases q <;> rfl

@[simp] theorem State.queue_setQueue_same (s : State) (q : QueueId) (v : Queue) : (s.setQueue q v).queue q = v := by
  cases q <;> rfl

theorem State.queue_setQueue_other (s : State) (q p : QueueId) (v : Queue) (h : p ≠ q) :
    (s.setQueue q v).queue p = s.queue p := by
  cases q <;> cases p <;> first | rfl | exact absurd rfl h

@[simp] theorem State.queue_csrStep_same (s : State) (q : QueueId) :
    (s.csrStep q).queue q = clearBusy (controlTransition q (s.queue q)) := by
  cases q <;> rfl

theorem State.queue_csrStep_other (s : State) (q p : QueueId) (h : p ≠ q) : (s.csrStep q).queue p = s.queue p :=
  s.queue_setQueue_other q p _ h

end Sys2Proof.Machine
end

