-- ==== Sys2Proof/Laws/Ops.lean ====
section
/-! SUPPORT. Each shared operation over the state, said once: all it can do, as one record update or as a disjunction of
them. -/

namespace Sys2Proof.Machine

/-! ### Interrupts and the end of a pass -/

/-- What a raise of a queue's interrupt hands out, in the state it finds. -/
def State.raised (s : State) (q : QueueId) : List Response :=
  if (s.queue q).armed = true ∧ vectorOf s.icvec q < s.cfg.numVectors.val then
    [.notify (vectorOf s.icvec q) (s.msi.getD (vectorOf s.icvec q) MsiEntry.reset)]
  else []

/-- A notification changes the outbox alone. -/
theorem State.notify_eq (s : State) (v : Nat) :
    s.notify v =
      { s with
        outbox := (if v < s.cfg.numVectors.val then [.notify v (s.msi.getD v MsiEntry.reset)] else []) ++ s.outbox } := by
  unfold State.notify State.emit
  split <;> rfl

/-- A raise sets the pending bit and notifies an armed queue's vector. -/
theorem State.raiseInterrupt_eq (s : State) (q : QueueId) :
    s.raiseInterrupt q =
      { s with ipsr := withBit s.ipsr (pendingBit q) true, outbox := s.raised q ++ s.outbox } := by
  unfold State.raiseInterrupt State.raised
  by_cases h : (s.queue q).armed = true
  · simp only [h, if_true, true_and, State.notify_eq]
  · simp [h]

/-- The end of a pass: not draining, and the interrupt if IRQ_ENABLE is set. -/
theorem State.endDrain_eq (s : State) :
    s.endDrain =
      { s with
        cqDraining := false
        ipsr := if bit s.cq.csr irqEnableBit then withBit s.ipsr 0 true else s.ipsr
        outbox := (if bit s.cq.csr irqEnableBit then s.raised .cq else []) ++ s.outbox } := by
  unfold State.endDrain
  by_cases h : bit s.cq.csr irqEnableBit = true
  · simp only [h, if_true, State.raiseInterrupt_eq]
    rfl
  · simp [h]

/-- The stop of a pass: one status bit of CQCSR, and the end of the pass. -/
theorem State.stopDrain_eq (s : State) (i : Nat) (hi : i ≠ irqEnableBit) :
    s.stopDrain i =
      { s with
        cq := { s.cq with csr := withBit s.cq.csr i true }
        cqDraining := false
        ipsr := if bit s.cq.csr irqEnableBit then withBit s.ipsr 0 true else s.ipsr
        outbox := (if bit s.cq.csr irqEnableBit then s.raised .cq else []) ++ s.outbox } := by
  unfold State.stopDrain
  rw [State.endDrain_eq]
  simp only [bit_withBit_other _ _ hi]
  rfl

/-! ### The fault report -/

/-- A store changes memory alone. -/
theorem State.store_eq (s : State) (a : Word) (bs : List Byte) : s.store a bs = { s with mem := writeBytes s.mem a bs } := rfl

/-- A failed store changes memory and the count of free bytes. -/
theorem State.failedStore_eq (s : State) (a : Word) (n : Nat) :
    s.failedStore a n = { s with mem := writeBytes s.mem a (freeBytes s.draws n), draws := s.draws + n } := rfl

/-- A record written: the tail and, with IRQ_ENABLE, the interrupt. -/
theorem State.recordWritten_eq (s : State) :
    s.recordWritten =
      { s with
        fq := { s.fq with qt := (s.fq.next s.fq.tail).setWidth 32 }
        ipsr := if bit s.fq.csr irqEnableBit then withBit s.ipsr 1 true else s.ipsr
        outbox := (if bit s.fq.csr irqEnableBit then s.raised .fq else []) ++ s.outbox } := by
  unfold State.recordWritten
  by_cases h : bit s.fq.csr irqEnableBit = true
  · simp only [h, if_true, State.raiseInterrupt_eq]
    rfl
  · simp [h]

/-- The four outcomes of a report, each with its condition (R328). -/
theorem State.report_cases (s : State) (did : Word) (c : Cause) (ttyp : BitVec 6) (iova phys : Word) :
    (recordAllowed s.fq.csr = false ∧ s.report did c ttyp iova phys = s) ∨
    (recordAllowed s.fq.csr = true ∧ s.fq.next s.fq.tail = s.fq.head ∧
      s.report did c ttyp iova phys = s.setFqStatus fullBit) ∨
    (recordAllowed s.fq.csr = true ∧ s.fq.next s.fq.tail ≠ s.fq.head ∧
      s.writable (recordSlot s.fq s.fq.tail) 32 = false ∧
      s.report did c ttyp iova phys = (s.failedStore (recordSlot s.fq s.fq.tail) 32).setFqStatus faultBit) ∨
    (recordAllowed s.fq.csr = true ∧ s.fq.next s.fq.tail ≠ s.fq.head ∧
      s.writable (recordSlot s.fq s.fq.tail) 32 = true ∧
      s.report did c ttyp iova phys =
        (s.store (recordSlot s.fq s.fq.tail) (faultRecord did c ttyp iova phys)).recordWritten) := by
  unfold State.report
  rcases h1 : recordAllowed s.fq.csr <;> simp only [Bool.not_false, Bool.not_true, if_true, Bool.false_eq_true, if_false]
  · simp
  · by_cases h2 : s.fq.next s.fq.tail = s.fq.head
    · simp [h2]
    · rcases h3 : s.writable (recordSlot s.fq s.fq.tail) 32 <;> simp [h2]

/-- A fault record is 32 bytes (R132). -/
@[simp] theorem faultRecord_length (did : Word) (c : Cause) (ttyp : BitVec 6) (iova phys : Word) :
    (faultRecord did c ttyp iova phys).length = 32 := by
  simp [faultRecord]

/-- A report keeps the canonical form of memory. -/
theorem State.report_wf (s : State) (did : Word) (c : Cause) (ttyp : BitVec 6) (iova phys : Word) (h : s.mem.wf) :
    (s.report did c ttyp iova phys).mem.wf := by
  rcases s.report_cases did c ttyp iova phys with ⟨-, e⟩ | ⟨-, -, e⟩ | ⟨-, -, -, e⟩ | ⟨-, -, -, e⟩ <;> rw [e]
  · exact h
  · exact h
  · rw [State.setFqStatus_mem]
    exact State.failedStore_wf s _ _ h
  · rw [State.recordWritten_mem]
    exact State.store_wf s _ _ h

end Sys2Proof.Machine
end

