-- ==== Sys2Proof/Laws/PerInstr.lean ====
section
/-! SUPPORT. The lemmas made per instruction: one family, one lemma for each constructor of `Instr`. -/

namespace Sys2Proof.Laws

open Sys2Proof.Machine

/-- The row of the code table (R121) that a command belongs to. -/
def rowOf : Instr → Opcode
  | .iotinvalVma _ _ _ _ _ _ => .iotinvalVma
  | .iotinvalGvma _ _ _ _ _ _ => .iotinvalGvma
  | .iofenceC _ _ _ _ _ _ => .iofenceC
  | .iodirInvDdt _ _ _ => .iodirInvDdt
  | .iodirPreDdt _ _ _ => .iodirPreDdt
  | .iodirInvPdt _ _ _ => .iodirInvPdt
  | .iodirPrePdt _ _ _ => .iodirPrePdt
  | .atsInval _ _ _ _ _ _ => .atsInval
  | .atsPrgr _ _ _ _ _ _ => .atsPrgr

/-- The low ten bits of the request word that encodes a command are its row's code (R119, R121). -/
def EncodedOpcode.Statement (i : Instr) : Prop := field (encode i).1 0 10 = (rowOf i).code

/-- A field placed at bit 10 or above leaves the ten opcode bits alone. -/
theorem field_or_place {n : Nat} (x : Word) (v : BitVec n) {lo : Nat} (h : 10 ≤ lo) :
    field (x ||| place v lo) 0 10 = field x 0 10 := by
  apply BitVec.eq_of_getLsbD_eq
  intro k hk
  have hlo : k < lo := by omega
  simp [field, place, hk, hlo]

/-- A flag placed at bit 10 or above leaves the ten opcode bits alone. -/
theorem field_or_placeBit (x : Word) (b : Bool) {lo : Nat} (h : 10 ≤ lo) :
    field (x ||| placeBit b lo) 0 10 = field x 0 10 := field_or_place x _ h

/-- The code stands in the ten opcode bits. -/
theorem field_place_code (c : BitVec 10) : field (place c 0) 0 10 = c := by
  apply BitVec.eq_of_getLsbD_eq
  intro k hk
  have h64 : k < 64 := by omega
  simp [field, place, hk, h64]

theorem EncodedOpcode.iotinvalVma (av : Bool) (pscid : BitVec 20) (pscv gv : Bool) (gscid : BitVec 16)
    (addr : BitVec 54) : EncodedOpcode.Statement (.iotinvalVma av pscid pscv gv gscid addr) := by
  simp [EncodedOpcode.Statement, encode, encodeIotinval, rowOf, field_or_place, field_or_placeBit, field_place_code]

theorem EncodedOpcode.iotinvalGvma (av : Bool) (pscid : BitVec 20) (pscv gv : Bool) (gscid : BitVec 16)
    (addr : BitVec 54) : EncodedOpcode.Statement (.iotinvalGvma av pscid pscv gv gscid addr) := by
  simp [EncodedOpcode.Statement, encode, encodeIotinval, rowOf, field_or_place, field_or_placeBit, field_place_code]

theorem EncodedOpcode.iofenceC (av wsi pr pw : Bool) (data : BitVec 32) (addr : Word) :
    EncodedOpcode.Statement (.iofenceC av wsi pr pw data addr) := by
  simp [EncodedOpcode.Statement, encode, rowOf, field_or_place, field_or_placeBit, field_place_code]

theorem EncodedOpcode.iodirInvDdt (pid : BitVec 20) (dv : Bool) (did : BitVec 24) :
    EncodedOpcode.Statement (.iodirInvDdt pid dv did) := by
  simp [EncodedOpcode.Statement, encode, encodeIodir, rowOf, field_or_place, field_or_placeBit, field_place_code]

theorem EncodedOpcode.iodirPreDdt (pid : BitVec 20) (dv : Bool) (did : BitVec 24) :
    EncodedOpcode.Statement (.iodirPreDdt pid dv did) := by
  simp [EncodedOpcode.Statement, encode, encodeIodir, rowOf, field_or_place, field_or_placeBit, field_place_code]

theorem EncodedOpcode.iodirInvPdt (pid : BitVec 20) (dv : Bool) (did : BitVec 24) :
    EncodedOpcode.Statement (.iodirInvPdt pid dv did) := by
  simp [EncodedOpcode.Statement, encode, encodeIodir, rowOf, field_or_place, field_or_placeBit, field_place_code]

theorem EncodedOpcode.iodirPrePdt (pid : BitVec 20) (dv : Bool) (did : BitVec 24) :
    EncodedOpcode.Statement (.iodirPrePdt pid dv did) := by
  simp [EncodedOpcode.Statement, encode, encodeIodir, rowOf, field_or_place, field_or_placeBit, field_place_code]

theorem EncodedOpcode.atsInval (pid : BitVec 20) (pv dsv : Bool) (rid : BitVec 16) (dseg : BitVec 8) (payload : Word) :
    EncodedOpcode.Statement (.atsInval pid pv dsv rid dseg payload) := by
  simp [EncodedOpcode.Statement, encode, encodeAts, rowOf, field_or_place, field_or_placeBit, field_place_code]

theorem EncodedOpcode.atsPrgr (pid : BitVec 20) (pv dsv : Bool) (rid : BitVec 16) (dseg : BitVec 8) (payload : Word) :
    EncodedOpcode.Statement (.atsPrgr pid pv dsv rid dseg payload) := by
  simp [EncodedOpcode.Statement, encode, encodeAts, rowOf, field_or_place, field_or_placeBit, field_place_code]

end Sys2Proof.Laws
end

