-- ==== Sys2Proof/Laws/RegFile.lean ====
section
/-! SUPPORT. The laws of the MMIO register file: which register a window byte belongs to, a register read after a register
write, and what the write of one window byte does to every register. -/

namespace Sys2Proof.Machine

/-! ### The register map -/

theorem covers_iff (r : Reg) (o : Nat) : r.covers o = true ↔ r.offset ≤ o ∧ o < r.offset + r.width := by
  simp [Reg.covers]

/-- A byte of an MSI table entry belongs to the register of that byte. -/
theorem msiReg_covers {cfg : Config} {o : Nat} (h1 : 0x300 ≤ o) (h2 : o < 0x300 + 16 * cfg.numVectors.val) :
    (msiReg o).covers o = true ∧ (msiReg o).Present cfg := by
  have hv : (o - 0x300) / 16 < cfg.numVectors.val := by omega
  unfold msiReg
  dsimp only
  split
  · refine ⟨?_, hv⟩
    simp only [covers_iff, Reg.offset, Reg.width]
    omega
  · split
    · refine ⟨?_, hv⟩
      simp only [covers_iff, Reg.offset, Reg.width]
      omega
    · refine ⟨?_, hv⟩
      simp only [covers_iff, Reg.offset, Reg.width]
      omega

/-- Every register below the MSI table is present. -/
theorem fixedRegs_present (cfg : Config) : ∀ r ∈ fixedRegs, r.Present cfg := by
  simp [fixedRegs, Reg.Present]

/-- The register located at a byte is present and covers the byte. -/
theorem locate_covers {cfg : Config} {o : Nat} {r : Reg} (h : locate cfg o = some r) :
    r.covers o = true ∧ r.Present cfg := by
  unfold locate at h
  split at h
  · rename_i hr
    rw [Option.some.injEq] at h
    subst h
    exact msiReg_covers hr.1 hr.2
  · exact ⟨List.find?_some (p := fun r : Reg => r.covers o) h, fixedRegs_present cfg r (List.mem_of_find?_eq_some h)⟩

/-- A register's bytes stand in the register map nowhere else. -/
theorem locate_of_covers {cfg : Config} {o : Nat} {r : Reg} (hp : r.Present cfg) (hc : r.covers o = true) :
    locate cfg o = some r := by
  have hn := cfg.numVectors.isLt
  rw [covers_iff] at hc
  unfold locate
  cases r
  case msiAddr v =>
    simp only [Reg.offset, Reg.width, Reg.Present] at hc hp
    rw [if_pos (by omega)]
    simp only [msiReg, Option.some.injEq]
    rw [if_pos (by omega)]
    congr 1
    omega
  case msiData v =>
    simp only [Reg.offset, Reg.width, Reg.Present] at hc hp
    rw [if_pos (by omega)]
    simp only [msiReg, Option.some.injEq]
    rw [if_neg (by omega), if_pos (by omega)]
    congr 1
    omega
  case msiCtrl v =>
    simp only [Reg.offset, Reg.width, Reg.Present] at hc hp
    rw [if_pos (by omega)]
    simp only [msiReg, Option.some.injEq]
    rw [if_neg (by omega), if_neg (by omega)]
    congr 1
    omega
  case' base q => cases q
  case' head q => cases q
  case' tail q => cases q
  case' csr q => cases q
  all_goals
    simp only [Reg.offset, Reg.width] at hc
    rw [if_neg (by omega)]
    obtain ⟨h1, h2⟩ := hc
    norm_num at h2
    interval_cases o <;> rfl

/-! ### A register after a write of a register -/

/-- The bits a register has. -/
def Reg.fit (r : Reg) : Word := if r.width = 4 then 0xFFFFFFFF else 0xFFFFFFFFFFFFFFFF

/-- The bits a register has, one by one. -/
theorem getLsbD_fit (r : Reg) (j : Nat) : r.fit.getLsbD j = decide (j < 8 * r.width) := by
  unfold Reg.fit
  split
  · rename_i h4
    show ((BitVec.allOnes 32).setWidth 64).getLsbD j = _
    rw [h4]
    simp only [BitVec.getLsbD_setWidth, BitVec.getLsbD_allOnes]
    by_cases h32 : j < 32 <;> simp [h32]
    omega
  · rename_i h4
    have h8 : r.width = 8 := by cases r <;> simp [Reg.width] at h4 ⊢
    show (BitVec.allOnes 64).getLsbD j = _
    rw [h8, BitVec.getLsbD_allOnes]

/-- A 4-byte register keeps the low 32 bits. -/
theorem setWidth_fit (x : Word) : (x.setWidth 32).setWidth 64 = x &&& 0xFFFFFFFF := by
  ext k hk
  have h : (0xFFFFFFFF : Word) = (BitVec.allOnes 32).setWidth 64 := rfl
  rw [h]
  simp only [BitVec.getElem_setWidth, BitVec.getLsbD_setWidth, BitVec.getElem_and, BitVec.getLsbD_allOnes]
  by_cases h32 : k < 32 <;> simp [h32, hk]

/-- The entry of an MSI table after one entry was replaced. -/
theorem getD_set_msi (m : List MsiEntry) (i j : Nat) (e : MsiEntry) (h : i < m.length) :
    (m.set i e).getD j MsiEntry.reset = if j = i then e else m.getD j MsiEntry.reset := by
  by_cases hj : j = i
  · subst hj
    simp [h]
  · simp [hj, Ne.symm hj]

/-- A register has a place in the state: in the MSI table, an entry of its number. -/
def Reg.Held (s : State) : Reg → Prop
  | .caps => True
  | .ddtp => True
  | .base _ => True
  | .head _ => True
  | .tail _ => True
  | .csr _ => True
  | .ipsr => True
  | .icvec => True
  | .msiAddr v => v < s.msi.length
  | .msiData v => v < s.msi.length
  | .msiCtrl v => v < s.msi.length

/-- With a table of NUM_VECTORS entries every present register has its place. -/
theorem Reg.Present.held {s : State} {r : Reg} (hp : r.Present s.cfg) (ht : s.TablesSized) : r.Held s := by
  cases r <;> first | trivial | exact Nat.lt_of_lt_of_eq hp ht.msi.symm

/-- The place depends on the size of the table alone. -/
theorem Reg.Held.congr {s t : State} {r : Reg} (h : r.Held s) (ht : t.msi.length = s.msi.length) : r.Held t := by
  cases r <;> first | trivial | exact Nat.lt_of_lt_of_eq h ht.symm

/-- Reading back a register other than CAPS gives what was written, cut to its width. -/
theorem readReg_writeReg_same (s : State) (r : Reg) (v : Word) (hr : r ≠ .caps) (hh : r.Held s) :
    (s.writeReg r v).readReg r = v &&& r.fit := by
  have full : ∀ x : Word, x = x &&& 0xFFFFFFFFFFFFFFFF := fun x => BitVec.and_allOnes.symm
  cases r
  case caps => exact absurd rfl hr
  case msiAddr i =>
    simp only [State.writeReg, State.readReg, getD_set_msi _ _ _ _ (show i < s.msi.length from hh), if_true]
    exact full v
  case msiData i =>
    simp only [State.writeReg, State.readReg, getD_set_msi _ _ _ _ (show i < s.msi.length from hh), if_true]
    exact setWidth_fit v
  case msiCtrl i =>
    simp only [State.writeReg, State.readReg, getD_set_msi _ _ _ _ (show i < s.msi.length from hh), if_true]
    exact setWidth_fit v
  case ipsr => exact setWidth_fit v
  case ddtp => exact full v
  case icvec => exact full v
  all_goals simp only [State.writeReg, State.readReg, State.queue_setQueue_same]
  case base => exact full v
  all_goals exact setWidth_fit v

/-- Replacing one field of a queue, seen through any other register. -/
theorem readReg_setQueue (s : State) (q : QueueId) (v : Queue) (r : Reg)
    (hb : r = .base q → v.qb = (s.queue q).qb) (hh : r = .head q → v.qh = (s.queue q).qh)
    (ht : r = .tail q → v.qt = (s.queue q).qt) (hc : r = .csr q → v.csr = (s.queue q).csr) :
    (s.setQueue q v).readReg r = s.readReg r := by
  have key : ∀ p, p ≠ q → (s.setQueue q v).queue p = s.queue p := fun p hp => s.queue_setQueue_other q p v hp
  cases r
  case base p => by_cases e : p = q <;> simp_all [State.readReg]
  case head p => by_cases e : p = q <;> simp_all [State.readReg]
  case tail p => by_cases e : p = q <;> simp_all [State.readReg]
  case csr p => by_cases e : p = q <;> simp_all [State.readReg]
  all_goals simp [State.readReg]

/-- Replacing one entry of the MSI table, seen through any other register. -/
theorem readReg_setMsi (s : State) (i : Nat) (e : MsiEntry) (r : Reg)
    (ha : r = .msiAddr i → e.addr = (s.msi.getD i MsiEntry.reset).addr)
    (hd : r = .msiData i → e.data = (s.msi.getD i MsiEntry.reset).data)
    (hc : r = .msiCtrl i → e.ctrl = (s.msi.getD i MsiEntry.reset).ctrl) :
    ({ s with msi := s.msi.set i e } : State).readReg r = s.readReg r := by
  have key : ∀ j, (s.msi.set i e).getD j MsiEntry.reset =
      if j = i ∧ i < s.msi.length then e else s.msi.getD j MsiEntry.reset := by
    intro j
    by_cases h : i < s.msi.length
    · rw [getD_set_msi _ _ _ _ h]
      simp [h]
    · rw [List.set_eq_of_length_le (by omega)]
      simp [h]
  cases r
  case msiAddr j => simp only [State.readReg, key]; split <;> simp_all
  case msiData j => simp only [State.readReg, key]; split <;> simp_all
  case msiCtrl j => simp only [State.readReg, key]; split <;> simp_all
  all_goals rfl

/-- A write of one register leaves every other register alone. -/
theorem readReg_writeReg_other (s : State) (r r' : Reg) (v : Word) (h : r' ≠ r) :
    (s.writeReg r v).readReg r' = s.readReg r' := by
  cases r
  case caps => rfl
  case ddtp => cases r' <;> first | rfl | contradiction
  case ipsr => cases r' <;> first | rfl | contradiction
  case icvec => cases r' <;> first | rfl | contradiction
  case base q => exact readReg_setQueue s q _ r' (fun e => absurd e h) (fun _ => rfl) (fun _ => rfl) (fun _ => rfl)
  case head q => exact readReg_setQueue s q _ r' (fun _ => rfl) (fun e => absurd e h) (fun _ => rfl) (fun _ => rfl)
  case tail q => exact readReg_setQueue s q _ r' (fun _ => rfl) (fun _ => rfl) (fun e => absurd e h) (fun _ => rfl)
  case csr q => exact readReg_setQueue s q _ r' (fun _ => rfl) (fun _ => rfl) (fun _ => rfl) (fun e => absurd e h)
  case msiAddr i => exact readReg_setMsi s i _ r' (fun e => absurd e h) (fun _ => rfl) (fun _ => rfl)
  case msiData i => exact readReg_setMsi s i _ r' (fun _ => rfl) (fun e => absurd e h) (fun _ => rfl)
  case msiCtrl i => exact readReg_setMsi s i _ r' (fun _ => rfl) (fun _ => rfl) (fun e => absurd e h)

/-- A write of a register keeps the size of the MSI table and the parameters. -/
@[simp] theorem writeReg_cfg (s : State) (r : Reg) (v : Word) : (s.writeReg r v).cfg = s.cfg := by
  cases r <;> simp [State.writeReg]

@[simp] theorem writeReg_msi_length (s : State) (r : Reg) (v : Word) : (s.writeReg r v).msi.length = s.msi.length := by
  cases r <;> simp [State.writeReg]

/-! ### The masked write of bytes -/

/-- Every register has at most 8 bytes. -/
theorem Reg.width_le (r : Reg) : r.width ≤ 8 := by cases r <;> simp [Reg.width]

/-- A register's value has no bit past its width. -/
theorem readReg_getLsbD_of_ge (s : State) (r : Reg) {i : Nat} (h : 8 * r.width ≤ i) :
    (s.readReg r).getLsbD i = false := by
  cases r <;> simp only [Reg.width] at h <;> simp only [State.readReg] <;>
    first
    | exact BitVec.getLsbD_of_ge _ _ (by omega)
    | (rw [BitVec.getLsbD_setWidth, BitVec.getLsbD_of_ge _ _ (by omega), Bool.and_false])

/-- The bits of a word with one byte replaced. -/
theorem getLsbD_withByte (v : Word) (k : Nat) (b : Byte) (i : Nat) (hk : k < 8) :
    (withByte v k b).getLsbD i = if i / 8 = k then b.getLsbD (i % 8) else v.getLsbD i := by
  by_cases hi : i < 64
  · simp only [withByte, withField, BitVec.getLsbD_or, BitVec.getLsbD_and, BitVec.getLsbD_not,
      BitVec.getLsbD_shiftLeft, BitVec.getLsbD_setWidth, BitVec.getLsbD_allOnes]
    by_cases h : i / 8 = k
    · have h1 : ¬ i < 8 * k := by omega
      have h2 : i - 8 * k = i % 8 := by omega
      have h3 : i % 8 < 8 := by omega
      have h4 : i % 8 < 64 := by omega
      simp [h, hi, h1, h2, h3, h4]
    · rcases Nat.lt_or_ge i (8 * k) with h1 | h1
      · simp [h, hi, h1]
      · have h2 : ¬ i - 8 * k < 8 := by omega
        have h3 : b.getLsbD (i - 8 * k) = false := BitVec.getLsbD_of_ge _ _ (by omega)
        simp [h, hi, h2, h3]
  · rw [BitVec.getLsbD_of_ge _ _ (by omega), if_neg (by omega), BitVec.getLsbD_of_ge _ _ (by omega)]

/-- One bit of the masked read-modify-write (R152). -/
def maskedBit (old ro wc b : Bool) : Bool := ((old && ro) || (b && !ro)) && !(b && wc)

/-- The bits of a masked byte. -/
theorem getLsbD_maskedByte (old ro wc b : Byte) (i : Nat) (h : i < 8) :
    (maskedByte old ro wc b).getLsbD i =
      maskedBit (old.getLsbD i) (ro.getLsbD i) (wc.getLsbD i) (b.getLsbD i) := by
  simp [maskedByte, maskedBit, h]

/-- The bits of byte `k` of a word. -/
theorem getLsbD_byteOf (v : Word) (k i : Nat) : (byteOf v k).getLsbD i = (decide (i < 8) && v.getLsbD (8 * k + i)) := by
  simp [byteOf]

/-- What the write of one window byte does to every bit of every register (R152). -/
theorem readReg_writeWindowByte (s : State) (o : Nat) (b : Byte) (r : Reg) (i : Nat) (hp : r.Present s.cfg)
    (hh : r.Held s) :
    ((s.writeWindowByte o b).readReg r).getLsbD i =
      if r.offset ≤ o ∧ o < r.offset + r.width ∧ i / 8 = o - r.offset then
        maskedBit ((s.readReg r).getLsbD i) (r.ro.getLsbD i) (r.wc.getLsbD i) (b.getLsbD (i % 8))
      else (s.readReg r).getLsbD i := by
  unfold State.writeWindowByte
  split
  · rename_i r' hl
    dsimp only
    have hc := (covers_iff _ _).mp (locate_covers hl).1
    have hw := r'.width_le
    by_cases hr : r = r'
    · subst hr
      by_cases hcaps : r = .caps
      · subst hcaps
        simp only [State.writeReg]
        split
        · rename_i h
          have hi : i < 64 := by simp only [Reg.offset, Reg.width] at h; omega
          have h1 : (Reg.ro .caps).getLsbD i = true := by
            show (BitVec.allOnes 64).getLsbD i = true
            rw [BitVec.getLsbD_allOnes, decide_eq_true hi]
          have h2 : (Reg.wc .caps).getLsbD i = false := BitVec.getLsbD_zero
          simp [maskedBit, h1, h2]
        · rfl
      · rw [readReg_writeReg_same s r _ hcaps hh, BitVec.getLsbD_and, getLsbD_withByte _ _ _ _ (by omega)]
        rw [getLsbD_fit]
        by_cases hi : i / 8 = o - r.offset
        · rw [if_pos hi, if_pos ⟨hc.1, hc.2, hi⟩, getLsbD_maskedByte _ _ _ _ _ (by omega)]
          have e : 8 * (o - r.offset) + i % 8 = i := by omega
          have h8 : i % 8 < 8 := by omega
          have hlt : i < 8 * r.width := by omega
          rw [getLsbD_byteOf, getLsbD_byteOf, getLsbD_byteOf, e, decide_eq_true h8, decide_eq_true hlt]
          simp
        · rw [if_neg hi, if_neg (by rintro ⟨-, -, h⟩; exact hi h)]
          by_cases hlt : i < 8 * r.width
          · simp [hlt]
          · simp [readReg_getLsbD_of_ge s r (Nat.le_of_not_lt hlt)]
    · rw [readReg_writeReg_other s r' r _ hr, if_neg]
      rintro ⟨h1, h2, -⟩
      have := locate_of_covers hp ((covers_iff r o).mpr ⟨h1, h2⟩)
      rw [hl] at this
      exact hr (Option.some.inj this).symm
  · rename_i hl
    rw [if_neg]
    rintro ⟨h1, h2, -⟩
    rw [locate_of_covers hp ((covers_iff r o).mpr ⟨h1, h2⟩)] at hl
    cases hl

@[simp] theorem writeWindowByte_cfg (s : State) (o : Nat) (b : Byte) : (s.writeWindowByte o b).cfg = s.cfg := by
  unfold State.writeWindowByte
  split <;> simp

@[simp] theorem writeWindowByte_msi_length (s : State) (o : Nat) (b : Byte) :
    (s.writeWindowByte o b).msi.length = s.msi.length := by
  unfold State.writeWindowByte
  split <;> simp

/-- What the masked writes of an MMIO write do to every bit of every register (R152). -/
theorem readReg_writeWindow (s : State) (o : Nat) (bs : List Byte) (r : Reg) (i : Nat) (hp : r.Present s.cfg)
    (hh : r.Held s) :
    ((s.writeWindow o bs).readReg r).getLsbD i =
      if o ≤ r.offset + i / 8 ∧ r.offset + i / 8 < o + bs.length ∧ i / 8 < r.width then
        maskedBit ((s.readReg r).getLsbD i) (r.ro.getLsbD i) (r.wc.getLsbD i)
          ((bs.getD (r.offset + i / 8 - o) 0).getLsbD (i % 8))
      else (s.readReg r).getLsbD i := by
  induction bs generalizing s o with
  | nil =>
    rw [if_neg (by simp only [List.length_nil]; omega)]
    rfl
  | cons b bs ih =>
    rw [State.writeWindow, ih _ _ (by simpa using hp) (hh.congr (by simp)), readReg_writeWindowByte s o b r i hp hh]
    simp only [List.length_cons]
    by_cases h0 : r.offset + i / 8 = o
    · by_cases hw : i / 8 < r.width
      · rw [if_neg (by omega), if_pos (by omega), if_pos (by omega)]
        simp [h0]
      · rw [if_neg (by omega), if_neg (by omega), if_neg (by omega)]
    · rw [if_neg (c := r.offset ≤ o ∧ o < r.offset + r.width ∧ i / 8 = o - r.offset) (by omega)]
      by_cases h1 : o + 1 ≤ r.offset + i / 8 ∧ r.offset + i / 8 < o + 1 + bs.length ∧ i / 8 < r.width
      · rw [if_pos h1, if_pos (by omega)]
        have e : r.offset + i / 8 - o = (r.offset + i / 8 - (o + 1)) + 1 := by omega
        rw [e, List.getD_cons_succ]
      · rw [if_neg h1, if_neg (by omega)]

@[simp] theorem writeWindow_cfg (s : State) (o : Nat) (bs : List Byte) : (s.writeWindow o bs).cfg = s.cfg := by
  induction bs generalizing s o with
  | nil => rfl
  | cons b bs ih => simp [State.writeWindow, ih]

@[simp] theorem writeWindow_msi_length (s : State) (o : Nat) (bs : List Byte) :
    (s.writeWindow o bs).msi.length = s.msi.length := by
  induction bs generalizing s o with
  | nil => rfl
  | cons b bs ih => simp [State.writeWindow, ih]

/-! ### The side effects of a write (R155) -/

/-- An access covers at least one byte of the register. -/
theorem overlaps_iff (r : Reg) (a n : Nat) :
    r.overlaps a n = true ↔ ∃ o, a ≤ o ∧ o < a + n ∧ r.offset ≤ o ∧ o < r.offset + r.width := by
  have hw : 0 < r.width := by cases r <;> simp [Reg.width]
  simp only [Reg.overlaps, Bool.and_eq_true, decide_eq_true_eq]
  constructor
  · rintro ⟨⟨h1, h2⟩, h3⟩
    rcases Nat.le_total a r.offset with h | h
    · exact ⟨r.offset, by omega⟩
    · exact ⟨a, by omega⟩
  · rintro ⟨o, h⟩
    omega

/-- Marking a register BUSY sets that one bit of that one register. -/
theorem readReg_markBusy (s : State) (r r' : Reg) (i : Nat) (a n : Nat) (hr : r ≠ .caps) (hi : i < 8 * r.width)
    (hh : r.Held s) :
    (s.markBusy r i a n).readReg r' =
      if r' = r ∧ r.overlaps a n = true then withBit (s.readReg r) i true else s.readReg r' := by
  unfold State.markBusy
  by_cases h : r.overlaps a n = true
  · rw [if_pos h]
    by_cases e : r' = r
    · subst e
      rw [if_pos ⟨rfl, h⟩, readReg_writeReg_same s r' _ hr hh]
      apply BitVec.eq_of_getLsbD_eq
      intro k hk
      rw [BitVec.getLsbD_and, getLsbD_fit]
      rcases Nat.lt_or_ge k (8 * r'.width) with hlt | hge
      · rw [decide_eq_true hlt, Bool.and_true]
      · rw [getLsbD_withBit, readReg_getLsbD_of_ge s r' hge, if_neg (by omega), Bool.false_and]
    · rw [if_neg (by rintro ⟨h, -⟩; exact e h), readReg_writeReg_other s r r' _ e]
  · rw [if_neg h, if_neg (by rintro ⟨-, h'⟩; exact h h')]

@[simp] theorem markBusy_cfg (s : State) (r : Reg) (i a n : Nat) : (s.markBusy r i a n).cfg = s.cfg := by
  unfold State.markBusy
  split <;> simp

@[simp] theorem markBusy_msi_length (s : State) (r : Reg) (i a n : Nat) :
    (s.markBusy r i a n).msi.length = s.msi.length := by
  unfold State.markBusy
  split <;> simp

/-- The bit that the side effects of a write set in a register, if they set one. -/
def busyBitOf : Reg → Option Nat
  | .caps => none
  | .ddtp => some ddtpBusyBit
  | .base _ => none
  | .head _ => none
  | .tail _ => none
  | .csr _ => some busyBit
  | .ipsr => none
  | .icvec => none
  | .msiAddr _ => none
  | .msiData _ => none
  | .msiCtrl _ => none

/-- What the side effects of a write do to every register. -/
theorem readReg_writeSideEffects (s : State) (a n : Nat) (r : Reg) :
    (s.writeSideEffects a n).readReg r =
      match busyBitOf r with
      | some i => if r.overlaps a n = true then withBit (s.readReg r) i true else s.readReg r
      | none => s.readReg r := by
  have hbell : (s.writeSideEffects a n).readReg r =
      ((((s.markBusy .ddtp ddtpBusyBit a n).markBusy (.csr .cq) busyBit a n).markBusy (.csr .fq) busyBit a n).markBusy
        (.csr .pq) busyBit a n).readReg r := by
    unfold State.writeSideEffects
    dsimp only
    split
    · cases r <;> rfl
    · rfl
  rw [hbell]
  have h1 := fun r' => readReg_markBusy s .ddtp r' ddtpBusyBit a n (by simp) (by decide) trivial
  generalize s.markBusy .ddtp ddtpBusyBit a n = t1 at h1
  have h2 := fun r' => readReg_markBusy t1 (.csr .cq) r' busyBit a n (by simp) (by decide) trivial
  generalize t1.markBusy (.csr .cq) busyBit a n = t2 at h2
  have h3 := fun r' => readReg_markBusy t2 (.csr .fq) r' busyBit a n (by simp) (by decide) trivial
  generalize t2.markBusy (.csr .fq) busyBit a n = t3 at h3
  have h4 := fun r' => readReg_markBusy t3 (.csr .pq) r' busyBit a n (by simp) (by decide) trivial
  cases r
  case csr q => cases q <;> simp [busyBitOf, h1, h2, h3, h4]
  all_goals simp [busyBitOf, h1, h2, h3, h4]

end Sys2Proof.Machine
end

