-- ==== Sys2Proof/Laws/Step.lean ====
section
/-! SUPPORT. What a step can do, said once: the outcomes of a command, of the Command Processor and of the machine, and the
induction that an invariant of every step follows. -/

namespace Sys2Proof.Machine

/-- The four outcomes of a command: done with no effect, done with an effect on the cache or on memory, or stopped by a
failed write (R293 to R302). -/
theorem exec_cases {i : Instr} {s t : State} (h : exec i s = .next t) :
    t = s.commandDone ∨
    (∃ pid dv did, i = .iodirInvDdt pid dv did ∧
      t = ({ s with das := if dv then s.das.invalidate (did.setWidth 64) else s.das.invalidateAll } : State).commandDone) ∨
    (∃ wsi pr pw data addr, i = .iofenceC true wsi pr pw data addr ∧ s.writable (fenceAddr addr) 4 = true ∧
      t = (s.store (fenceAddr addr) (leBytes 4 data.toNat)).commandDone) ∨
    (∃ wsi pr pw data addr, i = .iofenceC true wsi pr pw data addr ∧ s.writable (fenceAddr addr) 4 = false ∧
      t = (s.failedStore (fenceAddr addr) 4).stopDrain faultBit) := by
  cases i
  case iodirInvDdt pid dv did =>
    cases h
    exact .inr (.inl ⟨pid, dv, did, rfl, rfl⟩)
  case iofenceC av wsi pr pw data addr =>
    cases av
    · cases h
      exact .inl rfl
    · simp only [exec, execIofenceC, if_true] at h
      split at h
      · cases h
        exact .inr (.inr (.inl ⟨wsi, pr, pw, data, addr, rfl, ‹_›, rfl⟩))
      · rename_i hw
        cases h
        exact .inr (.inr (.inr ⟨wsi, pr, pw, data, addr, rfl, by simpa using hw, rfl⟩))
  all_goals
    cases h
    exact .inl rfl

/-- Every command answers a next state. -/
theorem exec_next (i : Instr) (s : State) : ∃ t, exec i s = .next t := by
  cases i
  case iofenceC av wsi pr pw data addr =>
    simp only [exec, execIofenceC]
    split
    · split <;> exact ⟨_, rfl⟩
    · exact ⟨_, rfl⟩
  all_goals exact ⟨_, rfl⟩

/-- A step of a drain pass (R281). -/
theorem drainStep_cases {s t : State} (h : s.drainStep = .next t) :
    (s.cq.head = s.cq.tail ∧ t = s.endDrain) ∨
    (s.cq.head ≠ s.cq.tail ∧ s.fetchCommand = none ∧ t = s.stopDrain faultBit) ∨
    (∃ bytes e, s.cq.head ≠ s.cq.tail ∧ s.fetchCommand = some bytes ∧ decode bytes = .error e ∧
      t = s.stopDrain errorBit) ∨
    (∃ bytes i, s.cq.head ≠ s.cq.tail ∧ s.fetchCommand = some bytes ∧ decode bytes = .ok i ∧ exec i s = .next t) := by
  unfold State.drainStep at h
  split at h
  · cases h
    exact .inl ⟨‹_›, rfl⟩
  · split at h
    · cases h
      exact .inr (.inl ⟨‹_›, ‹_›, rfl⟩)
    · split at h
      · cases h
        exact .inr (.inr (.inl ⟨_, _, ‹_›, ‹_›, ‹_›, rfl⟩))
      · exact .inr (.inr (.inr ⟨_, _, ‹_›, ‹_›, ‹_›, h⟩))

/-- A drain step always answers a next state. -/
theorem drainStep_next (s : State) : ∃ t, s.drainStep = .next t := by
  unfold State.drainStep
  split
  · exact ⟨_, rfl⟩
  · split
    · exact ⟨_, rfl⟩
    · split
      · exact ⟨_, rfl⟩
      · exact exec_next _ _

/-- What the encoder picks has its condition, and a control or directory change is picked only outside a drain pass
(R271). -/
theorem selected_cases {s : State} {d : Dispatch} (h : s.selected = some d) :
    s.pending d = true ∧ (d ≠ .drain → s.cqDraining = false) := by
  refine ⟨List.find?_some h, fun hd => ?_⟩
  by_contra hdr
  have hdr' : s.cqDraining = true := by simpa using hdr
  have : s.selected = some .drain := by simp [State.selected, priorityOrder, State.pending, hdr']
  rw [this] at h
  exact hd (Option.some.inj h).symm

/-- A step of the Command Processor (R272). -/
theorem processorStep_cases {s t : State} (h : s.processorStep = .next t) :
    (∃ d, s.selected = some d ∧ s.serve d = .next t) ∨ (s.selected = none ∧ t = s) := by
  unfold State.processorStep at h
  split at h
  · exact .inl ⟨_, ‹_›, h⟩
  · cases h
    exact .inr ⟨‹_›, rfl⟩

/-- A step of the machine: the agenda's move, or with an empty agenda the processor's, the oldest translation's, or none. -/
theorem step_cases {s t : State} (h : step s = .next t) :
    (∃ e rest, s.agenda = e :: rest ∧ ({ s with agenda := rest } : State).perform e = .next t) ∨
    (s.agenda = [] ∧
      ((∃ d, s.selected = some d ∧ s.serve d = .next t) ∨
        (s.selected = none ∧ ∃ f fs, s.flights = f :: fs ∧ t = s.advanceFlight f) ∨
        (s.selected = none ∧ s.flights = [] ∧ t = s))) := by
  simp only [step, State.atomicStep] at h
  split at h
  · exact .inl ⟨_, _, ‹_›, h⟩
  · refine .inr ⟨‹_›, ?_⟩
    simp only [State.defaultStep] at h
    split at h
    · exact .inl ⟨_, ‹_›, h⟩
    · split at h
      · cases h
        exact .inr (.inl ⟨‹_›, _, _, ‹_›, rfl⟩)
      · cases h
        exact .inr (.inr ⟨‹_›, ‹_›, rfl⟩)

/-- A flight that a tag finds is in flight under that tag. -/
theorem findFlight_some {fs : List Flight} {tag : Nat} {f : Flight} (h : findFlight fs tag = some f) :
    f ∈ fs ∧ f.tag = tag := by
  refine ⟨List.mem_of_find?_eq_some h, ?_⟩
  have := List.find?_some h
  simpa using this

/-- Tags being distinct, every flight is the one its tag finds. -/
theorem findFlight_of_mem {fs : List Flight} {f : Flight} (h : f ∈ fs) (hn : (fs.map Flight.tag).Nodup) :
    findFlight fs f.tag = some f := by
  unfold findFlight
  induction fs with
  | nil => cases h
  | cons g fs ih =>
    rw [List.map_cons, List.nodup_cons] at hn
    rcases List.mem_cons.mp h with rfl | h'
    · simp
    · have : g.tag ≠ f.tag := fun e => hn.1 (e ▸ List.mem_map_of_mem h')
      simp [this, ih h' hn.2]

/-- What every atomic step keeps, every step of the machine keeps. The premises are one for each atomic step, with what is
known of the state in which it is taken. -/
theorem step_preserves {P : State → Prop} {s t : State}
    (agenda : ∀ s es, P s → P { s with agenda := es })
    (mmioRead : ∀ s a n v, P s → P (s.emit (.mmioData a n v)))
    (mmioWrite : ∀ s a n v, P s → P (s.mmioWrite a n v))
    (beginTranslate : ∀ s did iova access, P s → P (s.beginTranslate did iova access))
    (advanceFlight : ∀ s f, f ∈ s.flights → P s → P (s.advanceFlight f))
    (hostWrite : ∀ s a bs, P s → P (s.store a bs))
    (hostNoRead : ∀ s rs, P s → P { s with noRead := rs })
    (hostNoWrite : ∀ s rs, P s → P { s with noWrite := rs })
    (hostPba : ∀ s i v, P s → P { s with pba := s.pba.set i v })
    (endDrain : ∀ s, s.cqDraining = true → P s → P s.endDrain)
    (stopDrain : ∀ s i, s.cqDraining = true → i = faultBit ∨ i = errorBit → P s → P (s.stopDrain i))
    (exec : ∀ i s t, s.cqDraining = true → exec i s = .next t → P s → P t)
    (startDrain : ∀ s, s.cqDraining = false → P s → P s.startDrain)
    (csrStep : ∀ s q, s.cqDraining = false → P s → P (s.csrStep q))
    (ddtpStep : ∀ s, s.cqDraining = false → P s → P s.ddtpStep)
    (h : step s = .next t) (hs : P s) : P t := by
  have serve : ∀ s t d, s.selected = some d → s.serve d = .next t → P s → P t := by
    intro s t d hsel hserve hs
    obtain ⟨hp, hd⟩ := selected_cases hsel
    cases d with
    | drain =>
      have hdr : s.cqDraining = true := hp
      rcases drainStep_cases hserve with ⟨-, rfl⟩ | ⟨-, -, rfl⟩ | ⟨_, _, -, -, -, rfl⟩ | ⟨_, i, -, -, -, hx⟩
      · exact endDrain s hdr hs
      · exact stopDrain s _ hdr (.inl rfl) hs
      · exact stopDrain s _ hdr (.inr rfl) hs
      · exact exec i s t hdr hx hs
    | startDrain =>
      cases hserve
      exact startDrain s (hd (by simp)) hs
    | csr q =>
      cases hserve
      exact csrStep s q (hd (by simp)) hs
    | ddtp =>
      cases hserve
      exact ddtpStep s (hd (by simp)) hs
  rcases step_cases h with ⟨e, rest, -, hp⟩ | ⟨-, hd⟩
  · have hs' := agenda s rest hs
    generalize ({ s with agenda := rest } : State) = u at hp hs'
    cases e with
    | mmioRead a n =>
      simp only [State.perform, performMmioRead] at hp
      split at hp
      · cases hp
        exact mmioRead u _ _ _ hs'
      · cases hp
    | mmioWrite a n v =>
      simp only [State.perform, performMmioWrite] at hp
      split at hp
      · cases hp
        exact mmioWrite u _ _ _ hs'
      · cases hp
    | translate did iova access =>
      cases hp
      exact beginTranslate u _ _ _ hs'
    | advance tag =>
      cases hp
      unfold State.advance
      split
      · exact advanceFlight u _ (findFlight_some ‹_›).1 hs'
      · exact hs'
    | processor =>
      rcases processorStep_cases hp with ⟨d, h1, h2⟩ | ⟨-, rfl⟩
      · exact serve u t d h1 h2 hs'
      · exact hs'
    | hostWrite a bs =>
      cases hp
      exact hostWrite u a bs hs'
    | hostNoRead rs =>
      cases hp
      exact hostNoRead u rs hs'
    | hostNoWrite rs =>
      cases hp
      exact hostNoWrite u rs hs'
    | hostPba i v =>
      cases hp
      exact hostPba u i v hs'
  · rcases hd with ⟨d, h1, h2⟩ | ⟨-, f, fs, hf, rfl⟩ | ⟨-, -, rfl⟩
    · exact serve s t d h1 h2 hs
    · exact advanceFlight s f (by simp [hf]) hs
    · exact hs

end Sys2Proof.Machine
end

