-- ==== Sys2Proof/Laws/Translate.lean ====
section
/-! SUPPORT. What one step of a translation can do to the state, and which phases can follow. -/

namespace Sys2Proof.Machine

/-- A flight's step changes nothing, fills the cache, or reports (R349). -/
theorem flightStep_cases (s : State) (f : Flight) :
    (s.flightStep f).2 = s ∨
    (∃ dc, f.phase = .fill dc ∧ (s.flightStep f).2 = s.fillCache f.did dc) ∨
    (∃ c phys, f.phase = .report c phys ∧ (s.flightStep f).2 = s.report f.did c (ttypOf f.access) f.iova phys) := by
  unfold State.flightStep
  split
  · split <;> exact .inl rfl
  · split <;> exact .inl rfl
  · exact .inr (.inl ⟨_, ‹_›, rfl⟩)
  · exact .inl rfl
  · exact .inr (.inr ⟨_, _, ‹_›, rfl⟩)

/-- The state after a flight's step, with the flight moved on or answered. -/
theorem advanceFlight_eq (s : State) (f : Flight) :
    s.advanceFlight f =
      match (s.flightStep f).1 with
      | .wait p => { (s.flightStep f).2 with flights := setPhase (s.flightStep f).2.flights f.tag p }
      | .answer r =>
        { (s.flightStep f).2 with
          flights := dropFlight (s.flightStep f).2.flights f.tag
          outbox := .translated f.tag r :: (s.flightStep f).2.outbox } := by
  unfold State.advanceFlight
  split <;> rename_i h <;> simp only [h]
  rfl

/-- The first step of a translation touches the cache at most (R341, R342). -/
theorem firstStep_cases (s : State) (did iova : Word) (access : Access) :
    (s.firstStep did iova access).2 = s ∨ (s.firstStep did iova access).2 = s.touchCache did := by
  unfold State.firstStep
  split
  · exact .inl rfl
  · exact .inl rfl
  · exact .inr rfl
  · exact .inr rfl
  · exact .inr rfl

/-- The state after a request's first step. -/
theorem beginTranslate_eq (s : State) (did iova : Word) (access : Access) :
    s.beginTranslate did iova access =
      match (s.firstStep did iova access).1 with
      | .answer r =>
        { (s.firstStep did iova access).2 with
          nextTag := s.nextTag + 1
          outbox := .translated s.nextTag r :: s.outbox }
      | .wait p =>
        { (s.firstStep did iova access).2 with
          nextTag := s.nextTag + 1
          flights := s.flights ++ [⟨s.nextTag, did, iova, access, s.ddtMode, s.ddtBase, p⟩] } := by
  unfold State.beginTranslate
  split <;> (rename_i h; simp only [h])

/-- A cache hit is a valid entry that stands in the cache. -/
theorem DasCache.hit_mem {c : DasCache} {did : Word} {dc : DC} (h : c.hit did = some dc) :
    ∃ e ∈ c, e.did = did ∧ e.valid = true ∧ e.dc = dc := by
  unfold DasCache.hit at h
  split at h
  · rename_i e he
    obtain ⟨hm, hd⟩ := DasCache.find_mem he
    split at h
    · exact ⟨e, hm, hd, ‹_›, Option.some.inj h⟩
    · cases h
  · cases h

/-- A new phase leaves every tag in flight. -/
@[simp] theorem setPhase_tags (fs : List Flight) (tag : Nat) (p : Phase) :
    (setPhase fs tag p).map Flight.tag = fs.map Flight.tag := by
  unfold setPhase
  rw [List.map_map]
  refine List.map_congr_left fun f _ => ?_
  simp only [Function.comp]
  split <;> rfl

/-- An answered translation's tag leaves the flights, and no other does. -/
theorem mem_dropFlight_tags (fs : List Flight) (tag x : Nat) :
    x ∈ (dropFlight fs tag).map Flight.tag ↔ x ∈ fs.map Flight.tag ∧ x ≠ tag := by
  simp only [dropFlight, List.mem_map, List.mem_filter, decide_eq_true_eq]
  constructor
  · rintro ⟨f, ⟨hf, hne⟩, rfl⟩
    exact ⟨⟨f, hf, rfl⟩, hne⟩
  · rintro ⟨⟨f, hf, rfl⟩, hne⟩
    exact ⟨f, ⟨hf, hne⟩, rfl⟩

@[simp] theorem answeredTags_append (a b : List Response) : answeredTags (a ++ b) = answeredTags a ++ answeredTags b := by
  simp [answeredTags]

/-- What a raise hands out answers no translation. -/
@[simp] theorem answeredTags_raised (s : State) (q : QueueId) : answeredTags (s.raised q) = [] := by
  unfold State.raised
  split <;> rfl

/-- A fill is hit by the next lookup (R342). -/
theorem hit_fillCache (s : State) (did : Word) (dc : DC) : (s.fillCache did dc).das.hit did = some dc := by
  unfold State.fillCache DasCache.hit
  simp only
  rw [show (s.das.put ⟨did, dc, true⟩).find did = some ⟨did, dc, true⟩ from
    DasCache.find_put_same s.das ⟨did, dc, true⟩]
  rfl

/-- The levels of a pass read memory and the failing ranges, not the cache (R210). -/
theorem walkLevels_das (s : State) (c : DasCache) (r : Radix) (stageOne : Bool) (addr : Word) (access : Access)
    (level : Nat) (base : Word) :
    ({ s with das := c } : State).walkLevels r stageOne addr access level base =
      s.walkLevels r stageOne addr access level base := by
  induction level generalizing base with
  | zero => unfold State.walkLevels; rfl
  | succ l ih => unfold State.walkLevels; simp only [ih]; rfl

/-- A walk does not read the cache (R210). -/
@[simp] theorem walk_das (s : State) (c : DasCache) (iova gatp satp : Word) (doStage1 : Bool) (access : Access) :
    ({ s with das := c } : State).walk iova gatp satp doStage1 access = s.walk iova gatp satp doStage1 access := by
  simp only [State.walk, State.walkPass, walkLevels_das]

/-- The pipeline after the lookup does not read the cache (R344). -/
@[simp] theorem pipeline_das (s : State) (c : DasCache) (dc : DC) (iova : Word) (access : Access) :
    ({ s with das := c } : State).pipeline dc iova access = s.pipeline dc iova access := by
  simp only [State.pipeline, walk_das]

/-- `GetDC`, by where the context comes from; it changes the cache at most (R342). -/
theorem getDC_cases (s : State) (did : Word) :
    ∃ c, (s.getDC did).2 = { s with das := c } ∧
      ((∃ dc, s.das.hit did = some dc ∧ (s.getDC did).1 = .ok dc) ∨
        s.das.hit did = none ∧ (s.getDC did).1 = s.fetchDC s.ddtMode s.ddtBase did) := by
  unfold State.getDC
  split
  · exact ⟨_, rfl, .inl ⟨_, ‹_›, rfl⟩⟩
  · split <;> exact ⟨_, rfl, .inr ⟨‹_›, by simp only [*]⟩⟩

/-- A context with DTF never leads to a report (R347). -/
theorem withContext_disableFault {cfg : Config} {dc : DC} {iova : Word} {access : Access} (h : dc.disableFault = true)
    (c : Cause) (phys : Word) : withContext cfg dc iova access ≠ .wait (.report c phys) := by
  unfold withContext ofWalk faultWithContext
  simp only [h, if_true]
  split
  · simp
  · split
    · simp
    · simp
    · split <;> simp

end Sys2Proof.Machine
end

