-- ==== Sys2Proof/Tests/Slice0.lean ====
section
/-! SUPPORT. The model's own tests. Every expected value is the spec's: an encoding written out from its bit table, or a
vector of 95_test_vectors.md, named in the test's comment. The `test_witness_…` theorems show, for each statement with
hypotheses, concrete values that meet all of them. -/

namespace Sys2Proof.Tests

open Sys2Proof.Machine Sys2Proof.Claims

set_option Elab.async false

/-! ### Fixtures of 95_test_vectors.md -/

/-- The next state, if the step answered one. -/
def after (o : Host.Outcome State Fault Refusal) : Option State :=
  match o with
  | .next t => some t
  | .fault _ => none
  | .refused _ => none

theorem exists_next {o : Host.Outcome State Fault Refusal} (h : (after o).isSome = true) : ∃ t, o = .next t := by
  cases o with
  | next t => exact ⟨t, rfl⟩
  | fault r => cases h
  | refused r => cases h

/-- CQ16. -/
def cq16 : Queue := { Queue.reset with qb := 0x20004003, csr := 0x00010003, base := 0x80010000, mask := 0xF, armed := true }

/-- FQ4. -/
def fq4 : Queue := { Queue.reset with qb := 0x2000C001, csr := 0x00010003, base := 0x80030000, mask := 3, armed := true }

/-- CQ16 and FQ4 with one command in slot 0 of the command queue and the tail past it. -/
def queued (req addr : Word) : State :=
  { State.reset with
    cq := { cq16 with qt := 1 }
    fq := fq4
    icvec := 0x12
    mem := writeBytes [] 0x80010000 (leBytes 8 req.toNat ++ leBytes 8 addr.toNat) }

/-- The same in a drain pass. -/
def draining (req addr : Word) : State := { queued req addr with cqDraining := true }

/-- A memory with 8-byte words stored. -/
def memOf : List (Word × Word) → Memory
  | [] => []
  | (a, v) :: rest => writeBytes (memOf rest) a (leBytes 8 v.toNat)

/-- T39. -/
def t39 : List (Word × Word) := [(0x80001000, 0x20000801), (0x80002488, 0x20000C01), (0x80003A28, 0x24000007)]

/-- G39. -/
def g39 : List (Word × Word) := [(0x80100010, 0x20041801), (0x80106400, 0x20041C01), (0x80107000, 0x2C000007)]

/-- DC10 in memory. -/
def dc10Memory : List (Word × Word) := [(0x80000400, 1), (0x80000410, 0x8000000000080001), (0x80000430, 1)]

/-- DC10. -/
def dc10 : DC := { DC.zero with tc := 1, satp := 0x8000000000080001, msiAddrPattern := 1 }

/-- A state whose memory holds the words. -/
def withMem (ws : List (Word × Word)) : State := { State.reset with mem := memOf ws }

/-- LVL1 at 0x8000_0000 with DC10 and T39, and FQ4. -/
def lvl1 : State :=
  { withMem (dc10Memory ++ t39) with ddtMode := .lvl1, ddtBase := 0x80000000, ddtp := 0x20000002, fq := fq4, icvec := 0x12 }

/-- A translation of device 0x10 at its cache fill. -/
def filling : State :=
  { lvl1 with
    nextTag := 1
    das := [⟨0x10, DC.zero, false⟩]
    flights := [⟨0, 0x10, 0x12345678, .read, .lvl1, 0x80000000, .fill dc10⟩] }

/-! ### Well-formedness and decoding -/

/-- R74, R126: bits 1:0 are no part of the completion address. -/
theorem test_wellFormed_refuses_misaligned_fence :
    (Instr.iofenceC true false false false 7 0x90000001).wellFormed = false ∧
    (Instr.iofenceC true false false false 7 0x90000002).wellFormed = false ∧
    (Instr.iofenceC true false false false 7 0x90000000).wellFormed = true := by decide

/-- R121: the nine codes are distinct. -/
theorem test_codes_distinct : (Opcode.all.map Opcode.code).Pairwise (· ≠ ·) := by decide

/-- R122: AV bit 10, PSCID 7 at bit 12, PSCV bit 32, GV bit 33, GSCID 5 at bit 44, ADDR 3 at bit 10. -/
theorem test_decode_iotinval_vma :
    decodeWords 0x0000500300007401 0xC00 = .ok (.iotinvalVma true 7 true true 5 3) := by decide

theorem test_decode_iotinval_gvma :
    decodeWords 0x0000500200007081 0xFFFFFFFFFFFFFFFF = .ok (.iotinvalGvma false 7 false true 5 0x3FFFFFFFFFFFFF) := by
  decide

/-- R126: AV, WSI, PR, PW are bits 10 to 13, DATA bits 63:32, and the address loses bits 1:0. -/
theorem test_decode_iofence_c :
    decodeWords 0x0000000700000402 0x90000003 = .ok (.iofenceC true false false false 7 0x90000000) ∧
    decodeWords 0x0000000700000802 0 = .ok (.iofenceC false true false false 7 0) ∧
    decodeWords 0x0000000700001002 0 = .ok (.iofenceC false false true false 7 0) ∧
    decodeWords 0x0000000700002002 0 = .ok (.iofenceC false false false true 7 0) := by decide

/-- R124: PID 5 at bit 12, DV bit 33, DID 0x10 at bit 40. -/
theorem test_decode_iodir :
    decodeWords 0x0000100200005003 0 = .ok (.iodirInvDdt 5 true 0x10) ∧
    decodeWords 0x0000100200005083 0 = .ok (.iodirPreDdt 5 true 0x10) ∧
    decodeWords 0x0000100000005103 0 = .ok (.iodirInvPdt 5 false 0x10) ∧
    decodeWords 0x0000100200005183 0 = .ok (.iodirPrePdt 5 true 0x10) := by decide

/-- R127: PID 9 at bit 12, PV bit 32, DSV bit 33, RID 0x1234 at bit 40, DSEG 0xAB at bit 56. -/
theorem test_decode_ats :
    decodeWords 0xAB12340100009004 0x55 = .ok (.atsInval 9 true false 0x1234 0xAB 0x55) ∧
    decodeWords 0xAB12340200009084 0x55 = .ok (.atsPrgr 9 false true 0x1234 0xAB 0x55) := by decide

/-- CP15 and R131: what is no command is refused by name. -/
theorem test_decode_refuses :
    decodeWords 0xFFFFFFFFFFFFFC00 0 = .error (.illegalOpcode 0x000) ∧
    decodeWords 0xFFFFFFFFFFFFFC05 0 = .error (.illegalOpcode 0x005) ∧
    decodeWords 0xFFFFFFFFFFFFFC82 0 = .error (.illegalOpcode 0x082) ∧
    decodeWords 0xFFFFFFFFFFFFFE03 0 = .error (.illegalOpcode 0x203) ∧
    decodeWords 0xFFFFFFFFFFFFFFFF 0 = .error (.illegalOpcode 0x3FF) ∧
    decode [1, 0, 0] = .error (.notSixteenBytes 3) := by decide

/-- The table's numbering: the code stands in bits 9:0 of the first word. -/
theorem test_decodeTableWord :
    decodeTableWord 16 0x0083 = some (.iodirPreDdt 0 false 0) ∧ decodeTableWord 16 0x0000 = none := by decide

/-! ### One step of every command (CP1 to CP16) -/

/-- CQH, CQCSR, IPSR and `s.cq_draining` after one step. -/
def oneStep (s : State) : Option (Reg32 × Reg32 × Reg32 × Bool) :=
  (after (step s)).map (fun t => (t.cq.qh, t.cq.csr, t.ipsr, t.cqDraining))

/-- CP1, CP2. -/
theorem test_step_iotinval :
    oneStep (draining 0x001 0) = some (1, 0x00010003, 0, true) ∧
    oneStep (draining 0x081 0) = some (1, 0x00010003, 0, true) := by decide +kernel

/-- CP3: the bytes 0D F0 FE CA at 0x8002_0000. -/
theorem test_step_iofence_c_writes :
    oneStep (draining 0xCAFEF00D00000402 0x80020000) = some (1, 0x00010003, 0, true) ∧
    (after (step (draining 0xCAFEF00D00000402 0x80020000))).map (fun t => readBytes t.mem 0x80020000 4) =
      some [0x0D, 0xF0, 0xFE, 0xCA] := by decide +kernel

/-- CP5: the write fails, CQ_FAULT is set, the head stays, CIP is set. -/
theorem test_step_iofence_c_fails :
    oneStep { draining 0x0000000700000402 0x90000003 with noWrite := [⟨0x90000000, 0x90000FFF⟩] } =
      some (0, 0x00010103, 1, false) := by decide +kernel

/-- CP6, CP7: the flag of device 0x10, of every device. -/
theorem test_step_iodir_inv_ddt :
    (after (step { draining 0x0000100200000003 0 with das := [⟨0x10, dc10, true⟩, ⟨0x11, dc10, true⟩] })).map State.das =
      some [⟨0x10, dc10, false⟩, ⟨0x11, dc10, true⟩] ∧
    (after (step { draining 0x003 0 with das := [⟨0x10, dc10, true⟩, ⟨0x11, dc10, true⟩] })).map State.das =
      some [⟨0x10, dc10, false⟩, ⟨0x11, dc10, false⟩] := by decide +kernel

/-- CP9 to CP11: the cache is unchanged. -/
theorem test_step_iodir_others :
    oneStep (draining 0x0000100200000083 0) = some (1, 0x00010003, 0, true) ∧
    oneStep (draining 0x103 0) = some (1, 0x00010003, 0, true) ∧
    oneStep (draining 0x183 0) = some (1, 0x00010003, 0, true) ∧
    (after (step { draining 0x0000100200000103 0 with das := [⟨0x10, dc10, true⟩] })).map State.das =
      some [⟨0x10, dc10, true⟩] := by decide +kernel

/-- CP12, CP13, CP14: reserved bits are ignored. -/
theorem test_step_ats :
    oneStep (draining 0xFFFFFFFFFFFFFC04 0xFFFFFFFFFFFFFFFF) = some (1, 0x00010003, 0, true) ∧
    oneStep (draining 0xFFFFFFFFFFFFFC84 0xFFFFFFFFFFFFFFFF) = some (1, 0x00010003, 0, true) := by decide +kernel

/-- CP15, CP16: CQ_ERROR and CQ_FAULT, the head stays, CIP is set. -/
theorem test_step_queue_errors :
    oneStep (draining 0x005 0) = some (0, 0x00010403, 1, false) ∧
    oneStep { draining 0x001 0 with noRead := [⟨0x8001000F, 0x8001000F⟩] } = some (0, 0x00010103, 1, false) := by
  decide +kernel

/-- A placed command is the one the next step after reset runs (log 13). -/
theorem test_withFetchWord :
    (after (step (State.reset.withFetchWord 16 0x0183))).map (fun t => t.cq.qh) = some 1 ∧
    (after (step (State.reset.withFetchWord 16 0x0000))).map (fun t => t.cq.csr) = some 0x00010400 := by decide +kernel

/-! ### The register file -/

/-- RF1, RF2, RF5. -/
theorem test_mmio_write :
    (({ State.reset with cq := { Queue.reset with csr := 0x00010103 } } : State).mmioWrite 0x48 4 0x103).cq.csr =
      0x00030003 ∧
    (State.reset.mmioWrite 0x10 8 0xFFFFFFFFFFFFFFFF).ddtp = 0x003FFFFFFFFFFC1F ∧
    (State.reset.mmioWrite 0x4E 4 0x00010000).mmioRead 0x4C 8 = 0x0002000100020000 := by decide +kernel

/-- RF10, RF12, RF13. -/
theorem test_mmio_write_more :
    (State.reset.mmioWrite 0x20 8 0x0000000500000003).cq.qt = 5 ∧
    (State.reset.mmioWrite 0x20 8 0x0000000500000003).cqDoorbell = true ∧
    (State.reset.mmioWrite 0x300 8 0xFFFFFFFFFFFFFFFF).mmioRead 0x300 8 = 0x00FFFFFFFFFFFFFC ∧
    (State.reset.mmioWrite 0xFFE 4 0xAABBCCDD).mmioRead 0xFFC 4 = 0 := by decide +kernel

/-! ### Control changes and the directory pointer -/

/-- CS1. -/
theorem test_enable :
    (({ State.reset with cq := { Queue.reset with qb := 0x20004003, csr := 0x00020003 } } : State).csrStep .cq).cq = cq16 := by
  decide +kernel

/-- DT2 (rejected) and DT3 (accepted, the cache invalidated). -/
theorem test_ddtp_step :
    ({ lvl1 with ddtp := 0x20020013 } : State).ddtpStep.ddtp = 0x20000002 ∧
    ({ lvl1 with ddtp := 0x20020011, das := [⟨0x10, dc10, true⟩] } : State).ddtpStep.ddtBase = 0x80080000 ∧
    ({ lvl1 with ddtp := 0x20020011, das := [⟨0x10, dc10, true⟩] } : State).ddtpStep.das = [⟨0x10, dc10, false⟩] := by
  decide +kernel

/-! ### The walkers, the MSI window, the fault writer, the translation -/

/-- DW1, DW4, DW6. -/
theorem test_fetchDC :
    (withMem [(0x80000020, 0x20000401), (0x800018C0, 1)]).fetchDC .lvl2 0x80000000 0x123 =
      .ok { DC.zero with tc := 1 } ∧
    State.reset.fetchDC .lvl3 0x80000000 0x1000000 = .error ⟨.ddtInvalid, 0⟩ ∧
    (withMem [(0x80000020, 0x20000400)]).fetchDC .lvl2 0x80000000 0x123 = .error ⟨.ddtInvalid, 0⟩ := by decide +kernel

/-- PW1, PW4, PW5. -/
theorem test_walk_stage_one :
    (withMem t39).walk 0x12345678 0 0x8000000000080001 true .read = .ok ⟨0x90000678, 0xFFF, .rw⟩ ∧
    (withMem ((0x80002488, 0x24000007) :: t39)).walk 0x12345678 0 0x8000000000080001 true .read =
      .ok ⟨0x90145678, 0xFFF, .rw⟩ ∧
    (withMem ((0x80002488, 0x24000407) :: t39)).walk 0x12345678 0 0x8000000000080001 true .read =
      .error ⟨.pdtInvalid, 0⟩ := by decide +kernel

/-- PW19, PW22, PW25. -/
theorem test_walk_two_stages :
    (withMem (t39 ++ g39)).walk 0x12345678 0x8000000000080100 0x8000000000080001 true .read =
      .ok ⟨0xB0000678, 0xFFF, .rw⟩ ∧
    (withMem ((0x80106400, 0) :: t39 ++ g39)).walk 0x12345678 0x8000000000080100 0x8000000000080001 true .read =
      .error ⟨.pdtInvalid, 0x90000678⟩ ∧
    State.reset.walk 0x12345678 0 0 false .rw = .ok ⟨0x12345678, 0xFFFFFFFFFFFFFFFF, .rw⟩ := by decide +kernel

/-- MW1, MW3, MW6. -/
theorem test_msiCheck :
    msiCheck Config.standard { DC.zero with msiptp := 0x1000000000000000, msiAddrMask := ~~~0xFFF, msiAddrPattern := 0x28000 }
      0x28000000 .write = .ok (.ok 0x28000000 0xFFF .w) ∧
    msiCheck Config.standard { DC.zero with msiptp := 0x1000000000000000, msiAddrMask := ~~~0xFFF, msiAddrPattern := 0x28000 }
      0x28000004 .write = .error ⟨.mrifFault, 0⟩ ∧
    msiCheck Config.standard { DC.zero with msiAddrMask := ~~~0, msiAddrPattern := 0x28000 } 0x28000000 .write =
      .error ⟨.ddtInvalid, 0⟩ := by decide

/-- FW3: the record's dwords, FQT, FIP and the notification of vector 1. -/
theorem test_report :
    let t := lvl1.report 0x10 .pageFaultWrite 3 0x12345678 0x90000678
    wordOf (readBytes t.mem 0x80030000 8) = 0x0000100C0000000F ∧ wordOf (readBytes t.mem 0x80030018 8) = 0x90000678 ∧
      t.fq.qt = 1 ∧ t.ipsr = 2 ∧ t.outbox = [.notify 1 MsiEntry.reset] := by decide +kernel

/-- FW4, FW6. -/
theorem test_report_full_and_failed :
    ({ lvl1 with fq := { fq4 with qt := 3 } } : State).report 0x10 .ddtFault 2 0 0 =
      { lvl1 with fq := { fq4 with qt := 3, csr := 0x00010203 } } ∧
    (({ lvl1 with noWrite := [⟨0x80030000, 0x8003001F⟩] } : State).report 0x10 .ddtFault 2 0 0).fq =
      { fq4 with csr := 0x00010103 } := by decide +kernel

/-- TR1, whole and step by step: the lookup, one directory read, the fill, three PTE reads. -/
theorem test_translate :
    (lvl1.translate 0x10 0x12345678 .read).1 = ⟨0x12345678, 0x90000678, 0xFFF, .rw⟩ ∧
    (advances 0 4 (lvl1.beginTranslate 0x10 0x12345678 .read)).outbox = [] ∧
    (advances 0 5 (lvl1.beginTranslate 0x10 0x12345678 .read)).outbox =
      [.translated 0 ⟨0x12345678, 0x90000678, 0xFFF, .rw⟩] := by decide +kernel

/-! ### Witnesses: concrete values that meet the hypotheses of each statement -/

theorem test_witness_decodeOfEncode :
    (Instr.iofenceC true true true true 0xFFFFFFFF 0xFFFFFFFFFFFFFFFC).wellFormed = true ∧
    (Instr.iotinvalVma true 7 true true 5 0x3FFFFFFFFFFFFF).wellFormed = true := by decide

theorem test_witness_encodeOfDecode :
    decodeWords 0xFFFFFFFFFFFFFC02 0xFFFFFFFFFFFFFFFF =
      .ok (.iofenceC true true true true 0xFFFFFFFF 0xFFFFFFFFFFFFFFFC) := by decide

theorem test_witness_decoderAccepts :
    decode (leBytes 8 0x0000100200000003 ++ leBytes 8 0) = .ok (.iodirInvDdt 0 true 0x10) := by decide

theorem test_witness_stepRunsDecodedCommand :
    (draining 0x001 0).cqDraining = true ∧ headIndex (draining 0x001 0) ≠ tailIndex (draining 0x001 0) ∧
    (draining 0x001 0).memRead ((draining 0x001 0).cq.base + headIndex (draining 0x001 0) * 16) 16 =
      some (leBytes 8 1 ++ leBytes 8 0) ∧
    decode (leBytes 8 1 ++ leBytes 8 0) = .ok (.iotinvalVma false 0 false false 0 0) ∧
    (draining 0x001 0).agenda = [] ∧
    ({ draining 0x001 0 with agenda := [.processor] } : State).agenda = .processor :: [] := by decide +kernel

theorem test_witness_illegalCommand :
    (draining 0x005 0).cqDraining = true ∧ headIndex (draining 0x005 0) ≠ tailIndex (draining 0x005 0) ∧
    (draining 0x005 0).memRead ((draining 0x005 0).cq.base + headIndex (draining 0x005 0) * 16) 16 =
      some (leBytes 8 5 ++ leBytes 8 0) ∧
    (wordOf (leBytes 8 5 ++ leBytes 8 0)).extractLsb' 0 10 ∉ commandCodes := by decide +kernel

theorem test_witness_failedCommandRead :
    let s : State := { draining 0x001 0 with noRead := [⟨0x8001000F, 0x8001000F⟩] }
    s.cqDraining = true ∧ headIndex s ≠ tailIndex s ∧ s.memRead (s.cq.base + headIndex s * 16) 16 = none := by
  decide +kernel

theorem test_witness_emptyQueue :
    let s : State := { draining 0x001 0 with cq := cq16 }
    s.cqDraining = true ∧ headIndex s = tailIndex s := by decide +kernel

theorem test_witness_doorbell :
    let s : State := { queued 0x001 0 with cqDoorbell := true }
    s.cqDraining = false ∧ s.cqDoorbell = true := by decide +kernel

theorem test_witness_passRunsAhead :
    (draining 0x001 0).cqDraining = true ∧ ∃ t, (draining 0x001 0).processorStep = .next t :=
  ⟨rfl, exists_next (by decide +kernel)⟩

/-- CQ16 is well shaped, with the head at the last slot too. -/
theorem cq16_shaped (h t : Reg32) : ({ cq16 with qh := h, qt := t } : Queue).Shaped where
  base := ⟨0x80010, show cq16.base = _ by decide⟩
  mask := .inr ⟨4, by decide, by decide, show cq16.mask = _ by decide⟩
  armed := show cq16.armed = bit cq16.csr activeBit by decide
  active := fun _ => show cq16.mask ≠ 0 by decide

/-- A head that software wrote far outside the queue names the last slot, and a memory that differs only past that slot. -/
theorem test_witness_commandFetch :
    let s : State := { State.reset with cq := { cq16 with qh := 0xFFFFFFFF } }
    s.cq.Shaped ∧ commandSlot s.cq s.cq.head = 0x800100F0 ∧
    ∀ x : Word, s.cq.base.toNat ≤ x.toNat → x.toNat < s.cq.base.toNat + (s.cq.mask.toNat + 1) * 16 →
      readByte [(0x80010100, 1)] x = readByte s.mem x := by
  refine ⟨cq16_shaped _ _, by decide, fun x _ hx => ?_⟩
  have hx : x.toNat < 0x80010100 := hx
  have : x.toNat ≠ 0x80010100 := by omega
  simp [readByte, Memory.get, this, State.reset, State.resetWith]

theorem test_witness_drainPass :
    let s : State := { queued 0x001 0 with cqDoorbell := true }
    s.cq.Shaped ∧ s.cqDraining = false ∧ s.cqDoorbell = true ∧ s.cq.csr.getLsbD 16 = true ∧
    s.cq.csr.getLsbD 8 = false ∧ s.cq.csr.getLsbD 10 = false ∧
    ((tailIndex s - headIndex s) &&& s.cq.mask).toNat = 1 ∧
    commandAt s (headIndex s + BitVec.ofNat 64 0) = some (.iotinvalVma false 0 false false 0 0) ∧
    storeAddress (.iotinvalVma false 0 false false 0 0) = none :=
  ⟨cq16_shaped _ _, by decide +kernel⟩

theorem test_witness_invDdtTwice :
    ∃ t, exec (.iodirInvDdt 0 true 0x10) { filling with das := [⟨0x10, dc10, true⟩] } = .next t := ⟨_, rfl⟩

theorem test_witness_fenceWrites :
    (queued 0x001 0).mem.wf ∧ touches (queued 0x001 0).noWrite (0x80020003 &&& 0xFFFFFFFFFFFFFFFC) 4 = false := by
  decide +kernel

theorem test_witness_fenceFails :
    touches ({ queued 0x001 0 with noWrite := [⟨0x80020003, 0x80020003⟩] } : State).noWrite
      (0x80020003 &&& 0xFFFFFFFFFFFFFFFC) 4 = true := by decide +kernel

/-- For CommandFrame, CommandMemoryFrame, CommandsKeepDirectoryAndContexts: a command that runs, and an address outside
its store. -/
theorem test_witness_commandFrames :
    (∃ t, exec (.iofenceC true false false false 7 0x90000000) (queued 0x001 0) = .next t) ∧
    storeAddress (.iofenceC true false false false 7 0x90000000) = some 0x90000000 ∧
    OutsideBytes 0x90000000 4 0x90000004 ∧ storeAddress (.iodirInvDdt 0 true 0x10) = none ∧
    ∀ pid dv did, (Instr.iofenceC true false false false 7 0x90000000) ≠ .iodirInvDdt pid dv did := by
  refine ⟨exists_next (by decide +kernel), by decide, ?_, by decide, fun _ _ _ h => by cases h⟩
  show ∀ k < 4, (0x90000004 : Word) ≠ 0x90000000 + BitVec.ofNat 64 k
  decide

theorem test_witness_enable :
    (({ State.reset with cq := { Queue.reset with csr := 0x00020003 } } : State).queue .cq).csr.getLsbD 0 = true ∧
    (({ State.reset with cq := { Queue.reset with csr := 0x00020003 } } : State).queue .cq).csr.getLsbD 16 = false := by
  decide

theorem test_witness_disable :
    (({ State.reset with fq := { fq4 with csr := 0x00030002 } } : State).queue .fq).csr.getLsbD 0 = false ∧
    (({ State.reset with fq := { fq4 with csr := 0x00030002 } } : State).queue .fq).csr.getLsbD 16 = true := by decide

theorem test_witness_noTransition :
    (({ State.reset with pq := { fq4 with csr := 0x00030001 } } : State).queue .pq).csr.getLsbD 0 =
      (({ State.reset with pq := { fq4 with csr := 0x00030001 } } : State).queue .pq).csr.getLsbD 16 := by decide

/-- Both sides of the table: LVL1 to LVL2 (code 3) is the rejected form, LVL1 to BARE (code 1) and OFF to LVL3 (code 4) the
accepted one. -/
theorem test_witness_ddtpTable :
    (let s : State := { lvl1 with ddtp := 0x20020013 }
     ¬ ((s.ddtp.extractLsb' 0 4).toNat ≤ 1 ∨
        (s.ddtp.extractLsb' 0 4).toNat ≤ 4 ∧ (s.ddtMode = .off ∨ s.ddtMode = .bare))) ∧
    (let s : State := { lvl1 with ddtp := 0x20020011 }
     (s.ddtp.extractLsb' 0 4).toNat ≤ 1) ∧
    (let s : State := { State.reset with ddtp := 0x20020014 }
     (s.ddtp.extractLsb' 0 4).toNat ≤ 4 ∧ (s.ddtMode = .off ∨ s.ddtMode = .bare)) := by decide +kernel

theorem test_witness_modeChange :
    ({ lvl1 with ddtp := 0x20020011 } : State).ddtpStep.ddtMode ≠ ({ lvl1 with ddtp := 0x20020011 } : State).ddtMode ∧
    ({ lvl1 with ddtp := 0x20020013 } : State).ddtpStep.ddtMode = ({ lvl1 with ddtp := 0x20020013 } : State).ddtMode := by
  decide +kernel

theorem reset_sized : State.reset.TablesSized := ⟨by decide, by decide⟩

/-- For WholeRegisterReadBack and WholeRegisterMaskedWrite: the first register and the last of the MSI table. -/
theorem test_witness_wholeRegister :
    State.reset.TablesSized ∧ Reg.caps.Present State.reset.cfg ∧ (Reg.msiCtrl 15).Present State.reset.cfg ∧
    Reg.caps ≠ Reg.msiCtrl 15 :=
  ⟨reset_sized, trivial, show 15 < 16 by decide, by decide⟩

/-- ACTIVE is read-only and not write-clear; CQ_FAULT is both. -/
theorem test_witness_readOnlyBits :
    State.reset.TablesSized ∧ (Reg.csr .cq).Present State.reset.cfg ∧
    (Reg.csr .cq).ro.getLsbD 16 = true ∧ (busyMask (.csr .cq)).getLsbD 16 = false ∧
    (Reg.csr .cq).wc.getLsbD 16 = false ∧
    (Reg.csr .cq).ro.getLsbD 8 = true ∧ (busyMask (.csr .cq)).getLsbD 8 = false ∧
    ((({ State.reset with cq := { cq16 with csr := 0x00010103 } } : State).mmioWrite 0x48 4 0).readReg (.csr .cq)).getLsbD 8 =
      true :=
  ⟨reset_sized, trivial, by decide +kernel⟩

/-- No register has a byte in 0x008 to 0x00F, CAPS alone has bytes in 0x000 to 0x007, and none has one at 0x058, at 0x402
or past the window. -/
theorem test_witness_unassigned :
    (∀ r, r.Present State.reset.cfg → r ≠ .caps → ¬ Touches r 0 16) ∧
    (∀ r, r.Present State.reset.cfg → ¬ Touches r 0x058 1) ∧ (0x058 : Nat) < 0x400 ∧
    (∀ r, r.Present State.reset.cfg → ¬ Touches r 0x402 1) ∧ 0x400 + pbaBytes State.reset.cfg ≤ 0x402 := by
  have key : ∀ a n, (fixedRegs.all fun r => r == .caps || !r.overlaps a n) = true → (a + n ≤ 0x300 ∨ 0x400 ≤ a) →
      ∀ r, r.Present State.reset.cfg → r ≠ .caps → ¬ Touches r a n := by
    intro a n h hr r hp hne ht
    have ho := (overlaps_iff r a n).mpr ht
    rw [List.all_eq_true] at h
    cases r
    case msiAddr v =>
      obtain ⟨o, h1, h2, h3, h4⟩ := ht
      have : v < 16 := hp
      simp only [Reg.offset, Reg.width] at h3 h4
      omega
    case msiData v =>
      obtain ⟨o, h1, h2, h3, h4⟩ := ht
      have : v < 16 := hp
      simp only [Reg.offset, Reg.width] at h3 h4
      omega
    case msiCtrl v =>
      obtain ⟨o, h1, h2, h3, h4⟩ := ht
      have : v < 16 := hp
      simp only [Reg.offset, Reg.width] at h3 h4
      omega
    case caps => exact hne rfl
    case base q => have := h (.base q) (by cases q <;> decide); simp_all
    case head q => have := h (.head q) (by cases q <;> decide); simp_all
    case tail q => have := h (.tail q) (by cases q <;> decide); simp_all
    case csr q => have := h (.csr q) (by cases q <;> decide); simp_all
    case ddtp => have := h .ddtp (by decide); simp_all
    case ipsr => have := h .ipsr (by decide); simp_all
    case icvec => have := h .icvec (by decide); simp_all
  have caps : ∀ a, 8 ≤ a → ¬ Touches .caps a 1 := by
    rintro a ha ⟨o, h1, h2, h3, h4⟩
    simp only [Reg.offset, Reg.width] at h3 h4
    omega
  refine ⟨key 0 16 (by decide) (by omega), fun r hp => ?_, by omega, fun r hp => ?_, by decide⟩
  · by_cases h : r = .caps
    · subst h
      exact caps _ (by omega)
    · exact key 0x058 1 (by decide) (by omega) r hp h
  · by_cases h : r = .caps
    · subst h
      exact caps _ (by omega)
    · exact key 0x402 1 (by decide) (by omega) r hp h

theorem test_witness_mmioSizes : (8 = 1 ∨ 8 = 2 ∨ 8 = 4 ∨ 8 = 8) ∧ 3 ≠ 1 ∧ 3 ≠ 2 ∧ 3 ≠ 4 ∧ 3 ≠ 8 := by decide

theorem test_witness_reportDropped :
    State.reset.fq.csr.getLsbD 16 = false ∧
    (let s : State := { lvl1 with fq := { fq4 with csr := 0x00010103 } }; s.fq.csr.getLsbD 8 = true) ∧
    (let s : State := { lvl1 with fq := { fq4 with csr := 0x00010203 } }; s.fq.csr.getLsbD 9 = true) ∧
    (let s : State := { lvl1 with fq := { fq4 with qt := 3 } }
     s.fq.csr.getLsbD 16 = true ∧ s.fq.csr.getLsbD 8 = false ∧ s.fq.csr.getLsbD 9 = false ∧
     ((s.fq.qt.setWidth 64 &&& s.fq.mask) + 1) &&& s.fq.mask = s.fq.qh.setWidth 64 &&& s.fq.mask) := by decide +kernel

theorem test_witness_failedRecord :
    let s : State := { lvl1 with noWrite := [⟨0x8003001F, 0x8003001F⟩] }
    s.fq.csr.getLsbD 16 = true ∧ s.fq.csr.getLsbD 8 = false ∧ s.fq.csr.getLsbD 9 = false ∧
    ((s.fq.qt.setWidth 64 &&& s.fq.mask) + 1) &&& s.fq.mask ≠ s.fq.qh.setWidth 64 &&& s.fq.mask ∧
    touches s.noWrite (s.fq.base + (s.fq.qt.setWidth 64 &&& s.fq.mask) * 32) 32 = true ∧
    ∀ k < 32, (0x80030020 : Word) ≠ s.fq.base + (s.fq.qt.setWidth 64 &&& s.fq.mask) * 32 + BitVec.ofNat 64 k := by
  decide +kernel

theorem test_witness_reportWrites :
    lvl1.mem.wf ∧ lvl1.fq.csr.getLsbD 16 = true ∧ lvl1.fq.csr.getLsbD 8 = false ∧ lvl1.fq.csr.getLsbD 9 = false ∧
    ((lvl1.fq.qt.setWidth 64 &&& lvl1.fq.mask) + 1) &&& lvl1.fq.mask ≠ lvl1.fq.qh.setWidth 64 &&& lvl1.fq.mask ∧
    touches lvl1.noWrite (lvl1.fq.base + (lvl1.fq.qt.setWidth 64 &&& lvl1.fq.mask) * 32) 32 = false := by decide +kernel

theorem fq4_shaped : fq4.Shaped where
  base := ⟨0x80030, by decide⟩
  mask := .inr ⟨2, by decide, by decide, by decide⟩
  armed := rfl
  active := fun _ => by decide

theorem test_witness_faultQueueHolds :
    lvl1.fq.Shaped ∧ lvl1.noWrite = [] ∧ lvl1.fq.csr.getLsbD 16 = true ∧ lvl1.fq.csr.getLsbD 8 = false ∧
    lvl1.fq.csr.getLsbD 9 = false ∧ lvl1.fq.qt.setWidth 64 &&& lvl1.fq.mask = lvl1.fq.qh.setWidth 64 &&& lvl1.fq.mask ∧
    3 ≤ lvl1.fq.mask.toNat :=
  ⟨fq4_shaped, by decide +kernel⟩

theorem test_witness_offAndBare :
    State.reset.ddtMode = .off ∧ (∀ f ∈ State.reset.flights, f.tag < State.reset.nextTag) ∧
    ({ State.reset with ddtMode := .bare } : State).ddtMode = .bare := by decide

/-- DW2: device id 0x40 in LVL1, and the error of a walk in BARE. -/
theorem test_witness_directoryFaults :
    State.reset.fetchDC .lvl1 0x80000000 0x40 = .error ⟨.ddtInvalid, 0⟩ ∧
    State.reset.fetchDC .bare 0 0 = .error ⟨.ddtUnsupported, 0⟩ := by decide +kernel

/-- DC10, and device id 0x7F (the last one) without MSI remapping (DW9). -/
theorem test_witness_fetchedContext :
    lvl1.fetchDC .lvl1 0x80000000 0x10 = .ok dc10 ∧
    ({ withMem [(0x80000FE0, 1)] with cfg := { Config.standard with msiEnabled := false } } : State).fetchDC .lvl1
      0x80000000 0x7F = .ok { DC.zero with tc := 1 } := by decide +kernel

theorem test_witness_msiBoundaries :
    ({ DC.zero with msiAddrPattern := 1 } : DC).msiAddrPattern &&& ~~~({ DC.zero with msiAddrPattern := 1 } : DC).msiAddrMask ≠ 0 ∧
    DC.zero.msiAddrMask = 0 ∧ DC.zero.msiAddrPattern = 0 := by decide

/-- 2^39 in stage one (PW2) and 2^41 in stage two (PW18) are the first addresses too wide. -/
theorem test_witness_widthCheck :
    atpMode 0x8000000000080001 = .radix sv39 ∧
    (0x8000000000 : Word) >>> (sv39.levels * sv39.indexBits + 12 + (if true then 0 else 2)) ≠ 0 ∧
    (0x20000000000 : Word) >>> (sv39.levels * sv39.indexBits + 12 + (if false then 0 else 2)) ≠ 0 := by decide

/-- An execute-only leaf and a read-only leaf at level 0, an aligned read-write leaf at level 1; a READ needs R, a WRITE
needs W, a NONE needs nothing. -/
theorem test_witness_permissions :
    (let pte : Word := 0x24000009
     pte.getLsbD 0 = true ∧ (pte.getLsbD 1 = true ∨ (pte.getLsbD 2 = false ∧ pte.getLsbD 3 = true)) ∧
       pte.getLsbD 1 = false) ∧
    (let pte : Word := 0x24000003
     pte.getLsbD 0 = true ∧ pte.getLsbD 1 = true ∧ pte.getLsbD 2 = false) ∧
    (let pte : Word := 0x24000007
     pte.getLsbD 0 = true ∧ pte.getLsbD 1 = true ∧ ptePpn sv39 pte &&& lowMask (1 * sv39.indexBits) = 0) := by decide

/-- For WalkGrantsOnlyPermittedAccesses and WalkKeepsThePageOffset: a walk of one page (PW1) and a BARE one (PW25). -/
theorem test_witness_walks :
    (withMem t39).walk 0x12345678 0 0x8000000000080001 true .read = .ok ⟨0x90000678, 0xFFF, .rw⟩ ∧
    State.reset.walk 0x12345678 0 0 false .rw = .ok ⟨0x12345678, 0xFFFFFFFFFFFFFFFF, .rw⟩ := by decide +kernel

/-- A stage-one fault (PW2) and a stage-two fault (PW22). -/
theorem test_witness_walkFaults :
    (withMem t39).walk 0x8000000000 0 0x8000000000080001 true .read = .error ⟨.dmaDisabled, 0⟩ ∧
    (withMem ((0x80106400, 0) :: t39 ++ g39)).walk 0x12345678 0x8000000000080100 0x8000000000080001 true .read =
      .error ⟨.pdtInvalid, 0x90000678⟩ := by decide +kernel

theorem test_witness_undisturbed : ∀ f ∈ filling.flights, f.tag < filling.nextTag := by decide

/-- DV = 0 and DV = 1 of this device, and DV = 1 of another; and a DDTP step from LVL1 to OFF. -/
theorem test_witness_staleFill :
    (⟨0, 0x10, 0x12345678, .read, .lvl1, 0x80000000, .fill dc10⟩ : Flight) ∈ filling.flights ∧
    (filling.flights.map Flight.tag).Nodup ∧
    (∃ t, exec (.iodirInvDdt 0 false 0) filling = .next t) ∧
    (∃ t, exec (.iodirInvDdt 0 true 0x10) filling = .next t) ∧
    (∃ t, exec (.iodirInvDdt 0 true 0x11) filling = .next t) ∧
    (⟨0, 0x10, 0x12345678, .read, .lvl1, 0x80000000, .fill dc10⟩ : Flight) ∈
      ({ filling with ddtp := 0x10 } : State).flights ∧
    ({ filling with ddtp := 0x10 } : State).ddtpStep.ddtMode ≠ ({ filling with ddtp := 0x10 } : State).ddtMode :=
  ⟨by simp [filling], by decide, ⟨_, rfl⟩, ⟨_, rfl⟩, ⟨_, rfl⟩, by simp [filling], by decide⟩

/-- LVL1 with one cached context of device 0x10. -/
def cachedAs (dc : DC) : State := { lvl1 with das := [⟨0x10, dc, true⟩] }

/-- For FaultsAreReportedUnlessDisabled: a device out of range; contexts from the cache and from the walk; DTF, PDTV and
both; a fault of the MSI check and one of the page-table walk; a DTF context found by a lookup and carried by a flight. -/
theorem test_witness_faultsReported :
    lvl1.ddtMode ≠ .off ∧ lvl1.ddtMode ≠ .bare ∧
    (lvl1.das.hit 0x40 = none ∧ lvl1.fetchDC lvl1.ddtMode lvl1.ddtBase 0x40 = .error ⟨.ddtInvalid, 0⟩) ∧
    (lvl1.das.hit 0x10 = none ∧ lvl1.fetchDC lvl1.ddtMode lvl1.ddtBase 0x10 = .ok dc10) ∧
    (let dc : DC := { dc10 with tc := 0x31 }
     (cachedAs dc).das.hit 0x10 = some dc ∧ dc.tc.getLsbD 4 = true ∧ dc.tc.getLsbD 5 = true) ∧
    (let dc : DC := { dc10 with tc := 0x21 }
     (cachedAs dc).das.hit 0x10 = some dc ∧ dc.tc.getLsbD 4 = false ∧ dc.tc.getLsbD 5 = true) ∧
    (let dc : DC := { DC.zero with tc := 1 }
     (cachedAs dc).das.hit 0x10 = some dc ∧ dc.tc.getLsbD 4 = false ∧ dc.tc.getLsbD 5 = false ∧
     msiCheck (cachedAs dc).cfg dc 0 .read = .error ⟨.mrifFault, 0⟩) ∧
    ((cachedAs dc10).das.hit 0x10 = some dc10 ∧ dc10.tc.getLsbD 4 = false ∧ dc10.tc.getLsbD 5 = false ∧
     msiCheck (cachedAs dc10).cfg dc10 0x8000000000 .read = .ok .fallThrough ∧
     (cachedAs dc10).walk 0x8000000000 dc10.gatp dc10.satp (atpMode dc10.satp ≠ .bare) .read = .error ⟨.dmaDisabled, 0⟩) ∧
    (Phase.fill { dc10 with tc := 0x11 }).context = some { dc10 with tc := 0x11 } := by decide +kernel

/-- For StepKeepsCanonicalForms: the translation of `filling` takes its fill. -/
theorem test_witness_canonical :
    filling.Canonical ∧ filling.TablesSized ∧ ∃ t, step filling = .next t :=
  ⟨⟨by decide +kernel, by decide⟩, ⟨by decide, by decide⟩, exists_next (by decide +kernel)⟩

/-- For StepKeepsRegisterInvariants: a drain pass about to run a command. -/
theorem test_witness_registerInvariants :
    (draining 0x001 0).ReservedZero ∧ (draining 0x001 0).QueuesShaped ∧ (draining 0x001 0).DirectoryShown ∧
    (draining 0x001 0).DrainGuarded ∧ ∃ t, step (draining 0x001 0) = .next t := by
  refine ⟨⟨by decide, fun q => by cases q <;> decide, by decide, by decide, by decide, by decide, by decide, by decide⟩,
    ⟨cq16_shaped _ _, fq4_shaped, ?_⟩, ⟨⟨0, by decide⟩, fun _ => by decide, fun _ => by decide⟩, fun _ => by decide,
    exists_next (by decide +kernel)⟩
  exact ⟨⟨0, by decide⟩, .inl rfl, rfl, fun h => by cases h⟩

/-- For StepKeepsTranslationInvariants: a translation in flight with a fetched context. -/
theorem test_witness_translationInvariants :
    filling.ContextsFetched ∧ filling.AnsweredOnce ∧ filling.NotifiesConfigured ∧ ∃ t, step filling = .next t := by
  refine ⟨⟨fun e he hv => ?_, fun f hf dc hdc => ?_⟩, ⟨by decide, by decide, by decide⟩, fun v e h => (by cases h),
    exists_next (by decide +kernel)⟩
  · simp only [filling, List.mem_singleton] at he
    subst he
    cases hv
  · simp only [filling, List.mem_singleton] at hf
    subst hf
    cases hdc
    exact ⟨by decide, fun h => by cases h⟩

/-- For OnlyTheDdtpStepMovesTheDirectory: a step that does move it. -/
theorem test_witness_ddtpStep :
    (∃ t, step { State.reset with ddtp := 0x20000012 } = .next t) ∧
    ({ State.reset with ddtp := 0x20000012 } : State).selected = some .ddtp :=
  ⟨exists_next (by decide +kernel), by decide⟩

end Sys2Proof.Tests
end

section
/-! What an MMIO write keeps (R152 to R155). -/

namespace Sys2Proof.Machine

/-! ### What lies outside the registers -/

/-- `t` differs from `s` in registers and the doorbell alone: the parameters, the active directory, the latched queue
descriptors, the cache, memory and all else are the same (R155, R160). -/
structure State.SameBehindRegisters (s t : State) : Prop where
  cfg : t.cfg = s.cfg
  base : ∀ q, (t.queue q).base = (s.queue q).base
  mask : ∀ q, (t.queue q).mask = (s.queue q).mask
  armed : ∀ q, (t.queue q).armed = (s.queue q).armed
  msiLength : t.msi.length = s.msi.length
  pba : t.pba = s.pba
  ddtMode : t.ddtMode = s.ddtMode
  ddtBase : t.ddtBase = s.ddtBase
  cqDraining : t.cqDraining = s.cqDraining
  das : t.das = s.das
  mem : t.mem = s.mem
  noRead : t.noRead = s.noRead
  noWrite : t.noWrite = s.noWrite
  flights : t.flights = s.flights
  nextTag : t.nextTag = s.nextTag
  draws : t.draws = s.draws
  agenda : t.agenda = s.agenda
  outbox : t.outbox = s.outbox

theorem State.SameBehindRegisters.refl (s : State) : s.SameBehindRegisters s := by
  constructor <;> intros <;> rfl

theorem State.SameBehindRegisters.trans {s t u : State} (h : s.SameBehindRegisters t) (k : t.SameBehindRegisters u) :
    s.SameBehindRegisters u where
  cfg := k.cfg.trans h.cfg
  base q := (k.base q).trans (h.base q)
  mask q := (k.mask q).trans (h.mask q)
  armed q := (k.armed q).trans (h.armed q)
  msiLength := k.msiLength.trans h.msiLength
  pba := k.pba.trans h.pba
  ddtMode := k.ddtMode.trans h.ddtMode
  ddtBase := k.ddtBase.trans h.ddtBase
  cqDraining := k.cqDraining.trans h.cqDraining
  das := k.das.trans h.das
  mem := k.mem.trans h.mem
  noRead := k.noRead.trans h.noRead
  noWrite := k.noWrite.trans h.noWrite
  flights := k.flights.trans h.flights
  nextTag := k.nextTag.trans h.nextTag
  draws := k.draws.trans h.draws
  agenda := k.agenda.trans h.agenda
  outbox := k.outbox.trans h.outbox

/-- A queue replaced by one with the same latched descriptor and armed flag. -/
theorem setQueue_sameBehindRegisters (s : State) (q : QueueId) (v : Queue) (hb : v.base = (s.queue q).base)
    (hm : v.mask = (s.queue q).mask) (ha : v.armed = (s.queue q).armed) : s.SameBehindRegisters (s.setQueue q v) := by
  constructor
  case base | mask | armed =>
    intro p
    by_cases e : p = q
    · subst e
      simpa
    · rw [s.queue_setQueue_other q p v e]
  all_goals simp

/-- A hardware update of a register changes nothing behind the registers. -/
theorem writeReg_sameBehindRegisters (s : State) (r : Reg) (v : Word) : s.SameBehindRegisters (s.writeReg r v) := by
  cases r
  case base q | head q | tail q | csr q => exact setQueue_sameBehindRegisters s q _ rfl rfl rfl
  all_goals constructor <;> intros <;> simp [State.writeReg] <;> rfl

theorem markBusy_sameBehindRegisters (s : State) (r : Reg) (i a n : Nat) :
    s.SameBehindRegisters (s.markBusy r i a n) := by
  unfold State.markBusy
  split
  · exact writeReg_sameBehindRegisters s r _
  · exact .refl s

theorem writeWindow_sameBehindRegisters (s : State) (o : Nat) (bs : List Byte) :
    s.SameBehindRegisters (s.writeWindow o bs) := by
  induction bs generalizing s o with
  | nil => exact .refl s
  | cons b bs ih =>
    have first : s.SameBehindRegisters (s.writeWindowByte o b) := by
      unfold State.writeWindowByte
      split
      · exact writeReg_sameBehindRegisters s _ _
      · exact .refl s
    exact first.trans (ih _ _)

theorem writeSideEffects_sameBehindRegisters (s : State) (a n : Nat) :
    s.SameBehindRegisters (s.writeSideEffects a n) := by
  have marked := (((markBusy_sameBehindRegisters s .ddtp ddtpBusyBit a n).trans
    (markBusy_sameBehindRegisters _ (.csr .cq) busyBit a n)).trans
    (markBusy_sameBehindRegisters _ (.csr .fq) busyBit a n)).trans
    (markBusy_sameBehindRegisters _ (.csr .pq) busyBit a n)
  unfold State.writeSideEffects
  dsimp only
  split
  · exact marked.trans (by constructor <;> intros <;> rfl)
  · exact marked

/-- An MMIO write changes nothing behind the registers and the doorbell (R155, R160). -/
theorem mmioWrite_sameBehindRegisters (s : State) (a n : Nat) (v : Word) : s.SameBehindRegisters (s.mmioWrite a n v) :=
  (writeWindow_sameBehindRegisters s a _).trans (writeSideEffects_sameBehindRegisters _ a n)

/-! ### Read-only and write-clear bits -/

/-- Every read-only bit, BUSY aside, is in `t` as in `s`, or, where it is write-clear, may have gone to 0 (R153). -/
def State.KeepsReadOnly (s t : State) : Prop :=
  ∀ (r : Reg) (i : Nat), r.ro.getLsbD i = true → busyBitOf r ≠ some i →
    (r.wc.getLsbD i = false → (t.readReg r).getLsbD i = (s.readReg r).getLsbD i) ∧
    ((t.readReg r).getLsbD i = true → (s.readReg r).getLsbD i = true)

/-- A register without a place in the state takes no update: its entry is past the end of the MSI table. -/
theorem writeReg_of_not_held {s : State} {r : Reg} (h : ¬ r.Held s) (v : Word) : s.writeReg r v = s := by
  cases r <;> simp only [Reg.Held, not_true_eq_false, not_lt] at h
  all_goals simp only [State.writeReg, List.set_eq_of_length_le h]

/-- A register that the block does not have, or that has no place in the state, is changed by no window write. -/
theorem readReg_writeWindow_absent (s : State) (o : Nat) (bs : List Byte) {r : Reg}
    (h : ¬ (r.Present s.cfg ∧ r.Held s)) : (s.writeWindow o bs).readReg r = s.readReg r := by
  induction bs generalizing s o with
  | nil => rfl
  | cons b bs ih =>
    have held : r.Held (s.writeWindowByte o b) → r.Held s := fun hh => hh.congr (by simp)
    rw [State.writeWindow, ih _ _ (by simpa using fun hp hh => h ⟨hp, held hh⟩)]
    unfold State.writeWindowByte
    split
    · rename_i r' hl
      by_cases e : r = r'
      · subst e
        rw [writeReg_of_not_held fun hh => h ⟨(locate_covers hl).2, hh⟩]
      · exact readReg_writeReg_other s r' r _ e
    · rfl

/-- The masked byte writes keep the read-only bits (R152, R153). -/
theorem writeWindow_keepsReadOnly (s : State) (o : Nat) (bs : List Byte) : s.KeepsReadOnly (s.writeWindow o bs) := by
  intro r i hro _
  by_cases h : r.Present s.cfg ∧ r.Held s
  · rw [readReg_writeWindow s o bs r i h.1 h.2]
    split
    · simp +contextual [maskedBit, hro]
    · simp
  · simp [readReg_writeWindow_absent s o bs h]

/-- The side effects of a write set BUSY bits alone (R155). -/
theorem writeSideEffects_keepsReadOnly (s : State) (a n : Nat) : s.KeepsReadOnly (s.writeSideEffects a n) := by
  intro r i _ hbusy
  have same : ((s.writeSideEffects a n).readReg r).getLsbD i = (s.readReg r).getLsbD i := by
    rw [readReg_writeSideEffects]
    split
    · rename_i j hj
      have hji : j ≠ i := fun e => hbusy (e ▸ hj)
      split
      · rw [getLsbD_withBit, if_neg hji]
      · rfl
    · rfl
  simp [same]

/-- Whatever an MMIO write stores, a read-only bit stays and a write-clear bit can only be cleared (R153, R154). -/
theorem mmioWrite_keepsReadOnly (s : State) (a n : Nat) (v : Word) : s.KeepsReadOnly (s.mmioWrite a n v) := by
  intro r i hro hbusy
  obtain ⟨wsame, wclear⟩ := writeWindow_keepsReadOnly s a (leBytes n v.toNat) r i hro hbusy
  obtain ⟨ssame, sclear⟩ := writeSideEffects_keepsReadOnly (s.writeWindow a (leBytes n v.toNat)) a n r i hro hbusy
  exact ⟨fun hwc => (ssame hwc).trans (wsame hwc), fun h => wclear (sclear h)⟩

open Claims in
/-- The BUSY bit as a mask and as a bit number. -/
theorem getLsbD_busyMask (r : Reg) (i : Nat) : (busyMask r).getLsbD i = decide (busyBitOf r = some i) := by
  have ddtp : (0x10 : Word) = BitVec.twoPow 64 4 := rfl
  have csr : (0x20000 : Word) = BitVec.twoPow 64 17 := rfl
  cases r <;> simp [busyMask, busyBitOf, ddtp, csr]

/-! ### Writes that cover no register -/

theorem writeWindowByte_of_locate {s : State} {o : Nat} (h : ∀ r, locate s.cfg o = some r → r = .caps) (b : Byte) :
    s.writeWindowByte o b = s := by
  unfold State.writeWindowByte
  split
  · rename_i r hl
    rw [h r hl]
    rfl
  · rfl

theorem writeWindow_of_locate {s : State} {o : Nat} (bs : List Byte)
    (h : ∀ x, o ≤ x → x < o + bs.length → ∀ r, locate s.cfg x = some r → r = .caps) : s.writeWindow o bs = s := by
  induction bs generalizing o with
  | nil => rfl
  | cons b bs ih =>
    simp only [List.length_cons] at h
    rw [State.writeWindow, writeWindowByte_of_locate (h o le_rfl (by omega)) b]
    exact ih fun x hx hlt => h x (by omega) (by omega)

theorem writeSideEffects_of_not_overlaps {s : State} {a n : Nat}
    (h : ∀ r ∈ [Reg.ddtp, .csr .cq, .csr .fq, .csr .pq, .tail .cq], r.overlaps a n = false) :
    s.writeSideEffects a n = s := by
  simp only [List.forall_mem_cons] at h
  simp [State.writeSideEffects, State.markBusy, h]

open Claims in
/-- An access that touches no register but CAPS writes nothing (R39, R40, R154). -/
theorem mmioWrite_of_not_touches {s : State} {a n : Nat} (v : Word)
    (h : ∀ r, r.Present s.cfg → r ≠ .caps → ¬ Touches r a n) : s.mmioWrite a n v = s := by
  have bytes : s.writeWindow a (leBytes n v.toNat) = s := by
    refine writeWindow_of_locate _ fun x hax hxn r hl => ?_
    rw [leBytes_length] at hxn
    obtain ⟨hc, hp⟩ := locate_covers hl
    by_contra hr
    exact h r hp hr ⟨x, hax, hxn, (covers_iff r x).mp hc⟩
  have quiet : ∀ r : Reg, r.Present s.cfg → r ≠ .caps → r.overlaps a n = false := fun r hp hr =>
    Bool.eq_false_iff.mpr fun ho => h r hp hr ((overlaps_iff r a n).mp ho)
  have present : ∀ r ∈ [Reg.ddtp, .csr .cq, .csr .fq, .csr .pq, .tail .cq], r.Present s.cfg ∧ r ≠ .caps := by
    simp [Reg.Present]
  rw [State.mmioWrite, bytes]
  exact writeSideEffects_of_not_overlaps fun r hr => quiet r (present r hr).1 (present r hr).2

open Claims in
/-- A byte of no register and not of the PBA reads 0 (R39, R40). -/
theorem windowByte_of_not_touches {s : State} {o : Nat} (h : ∀ r, r.Present s.cfg → ¬ Touches r o 1)
    (hpba : o < 0x400 ∨ 0x400 + pbaBytes s.cfg ≤ o) : s.windowByte o = 0 := by
  unfold State.windowByte
  split
  · rfl
  · rw [if_neg (by omega)]
    split
    · rename_i r hl
      obtain ⟨hc, hp⟩ := locate_covers hl
      exact absurd ⟨o, le_rfl, by omega, (covers_iff r o).mp hc⟩ (h r hp)
    · rfl

end Sys2Proof.Machine

namespace Sys2Proof.Proofs

open Sys2Proof.Machine Sys2Proof.Claims

/-- Settles O30: an MMIO write keeps the read-only bits. -/
theorem readOnlyBitsSurviveWrites : Obligations.ReadOnlyBitsSurviveWrites := by
  unfold Obligations.ReadOnlyBitsSurviveWrites
  intro s a n v r i _ _ hro hbusy
  rw [getLsbD_busyMask, decide_eq_false_iff_not] at hbusy
  exact mmioWrite_keepsReadOnly s a n v r i hro hbusy

/-- Settles O31: both halves rest on the register map, which locates a register at each byte that a register covers. -/
theorem unassignedOffsetsAreInert : Obligations.UnassignedOffsetsAreInert := by
  unfold Obligations.UnassignedOffsetsAreInert
  intro s
  exact ⟨fun _ _ v h => mmioWrite_of_not_touches v h, fun _ h hpba => windowByte_of_not_touches h hpba⟩

end Sys2Proof.Proofs
end

section
/-! The canonical forms of memory and the cache, the sizes of the tables, and the directory, over every step. -/

namespace Sys2Proof.Machine

/-! ### What a translation's steps can change -/

/-- A request's first step touches the cache at most, beside the model's records of the requests (R341, R342). -/
theorem beginTranslate_cases (s : State) (did iova : Word) (access : Access) :
    ∃ c tag fl out, (c = s.das ∨ c = s.das.touch did) ∧
      s.beginTranslate did iova access = { s with das := c, nextTag := tag, flights := fl, outbox := out } := by
  rw [beginTranslate_eq]
  rcases firstStep_cases s did iova access with h | h <;> rw [h] <;> split
  · exact ⟨_, _, _, _, .inl rfl, rfl⟩
  · exact ⟨_, _, _, _, .inl rfl, rfl⟩
  · exact ⟨_, _, _, _, .inr rfl, rfl⟩
  · exact ⟨_, _, _, _, .inr rfl, rfl⟩

/-- A flight's step changes nothing, fills the cache or reports, beside the records of the requests (R349). -/
theorem advanceFlight_cases (s : State) (f : Flight) :
    ∃ u fl out, s.advanceFlight f = { u with flights := fl, outbox := out } ∧
      (u = s ∨ (∃ dc, u = s.fillCache f.did dc) ∨
        ∃ c phys, u = s.report f.did c (ttypOf f.access) f.iova phys) := by
  have after : ∃ fl out, s.advanceFlight f = { (s.flightStep f).2 with flights := fl, outbox := out } := by
    rw [advanceFlight_eq]
    split <;> exact ⟨_, _, rfl⟩
  obtain ⟨fl, out, he⟩ := after
  refine ⟨_, fl, out, he, ?_⟩
  rcases flightStep_cases s f with h | ⟨dc, -, h⟩ | ⟨c, phys, -, h⟩
  · exact .inl h
  · exact .inr (.inl ⟨dc, h⟩)
  · exact .inr (.inr ⟨c, phys, h⟩)

/-! ### What a DDTP step can change -/

/-- A DDTP step adopts the mode that the register names, or puts the active mode and base back (R290). -/
theorem ddtpStep_cases (s : State) :
    (∃ m, ddtModeOfCode (ddtpMode s.ddtp) = some m ∧ s.ddtpStep = s.adoptDdtp m) ∨ s.ddtpStep = s.rejectDdtp := by
  unfold State.ddtpStep
  split
  · split
    · exact .inl ⟨_, ‹_›, rfl⟩
    · exact .inr rfl
  · exact .inr rfl

/-- A DDTP step keeps the cache or clears all its flags (R290, R291). -/
theorem ddtpStep_das (s : State) : s.ddtpStep.das = s.das ∨ s.ddtpStep.das = s.das.invalidateAll := by
  rcases ddtpStep_cases s with ⟨m, -, e⟩ | e <;> rw [e]
  · unfold State.adoptDdtp
    dsimp only
    split
    · exact .inr rfl
    · exact .inl rfl
  · exact .inl rfl

/-! ### Canonical forms and table sizes -/

/-- Memory and the cache are canonical and the tables have their sizes. -/
structure State.InForm (s : State) : Prop where
  canonical : s.Canonical
  tables : s.TablesSized

/-- A change that keeps memory and the cache canonical, and the parameters and the lengths of the tables. -/
theorem State.InForm.of_lengths {s t : State} (h : s.InForm) (mem : t.mem.wf) (das : t.das.wf) (cfg : t.cfg = s.cfg)
    (msi : t.msi.length = s.msi.length) (pba : t.pba.length = s.pba.length) : t.InForm := by
  obtain ⟨hmsi, hpba⟩ := h.tables
  exact ⟨⟨mem, das⟩, ⟨by rw [msi, cfg, hmsi], by rw [pba, cfg, hpba]⟩⟩

/-- A change that leaves memory and the cache as they were. -/
theorem State.InForm.of_same {s t : State} (h : s.InForm) (mem : t.mem = s.mem) (das : t.das = s.das)
    (cfg : t.cfg = s.cfg) (msi : t.msi.length = s.msi.length) (pba : t.pba.length = s.pba.length) : t.InForm :=
  h.of_lengths (mem ▸ h.canonical.mem) (das ▸ h.canonical.das) cfg msi pba

/-- A command keeps the forms. -/
theorem exec_inForm {i : Instr} {s t : State} (h : exec i s = .next t) (hs : s.InForm) : t.InForm := by
  obtain ⟨hmem, hdas⟩ := hs.canonical
  rcases exec_cases h with rfl | ⟨_, dv, did, -, rfl⟩ | ⟨_, _, _, _, _, -, -, rfl⟩ | ⟨_, _, _, _, addr, -, -, rfl⟩
  · exact hs.of_same rfl rfl rfl rfl rfl
  · refine hs.of_lengths hmem ?_ rfl rfl rfl
    cases dv
    · exact DasCache.wf_invalidateAll hdas
    · exact DasCache.wf_invalidate _ hdas
  · exact hs.of_lengths (s.store_wf _ _ hmem) hdas rfl rfl rfl
  · have failed : (s.failedStore (fenceAddr addr) 4).InForm :=
      hs.of_lengths (s.failedStore_wf _ _ hmem) hdas rfl rfl rfl
    exact failed.of_same (by simp) (by simp) (by simp) (by simp) (by simp)

/-- A step of a translation keeps the forms. -/
theorem advanceFlight_inForm {s : State} (f : Flight) (hs : s.InForm) : (s.advanceFlight f).InForm := by
  obtain ⟨hmem, hdas⟩ := hs.canonical
  obtain ⟨u, fl, out, he, hu⟩ := advanceFlight_cases s f
  rw [he]
  rcases hu with rfl | ⟨dc, rfl⟩ | ⟨c, phys, rfl⟩
  · exact hs.of_same rfl rfl rfl rfl rfl
  · exact hs.of_lengths hmem (DasCache.wf_put _ hdas) rfl rfl rfl
  · exact hs.of_lengths (s.report_wf _ _ _ _ _ hmem) (by simpa) (by simp) (by simp) (by simp)

/-- A request's first step keeps the forms. -/
theorem beginTranslate_inForm {s : State} (did iova : Word) (access : Access) (hs : s.InForm) :
    (s.beginTranslate did iova access).InForm := by
  obtain ⟨hmem, hdas⟩ := hs.canonical
  obtain ⟨c, tag, fl, out, hc, he⟩ := beginTranslate_cases s did iova access
  rw [he]
  rcases hc with rfl | rfl
  · exact hs.of_same rfl rfl rfl rfl rfl
  · exact hs.of_lengths hmem (DasCache.wf_touch did hdas) rfl rfl rfl

/-- A DDTP step keeps the forms. -/
theorem ddtpStep_inForm {s : State} (hs : s.InForm) : s.ddtpStep.InForm := by
  obtain ⟨hmem, hdas⟩ := hs.canonical
  have wf : s.ddtpStep.das.wf := by
    rcases ddtpStep_das s with e | e <;> rw [e]
    · exact hdas
    · exact DasCache.wf_invalidateAll hdas
  exact hs.of_lengths (by simpa using hmem) wf (by simp) (by simp) (by simp)

/-- An MMIO write keeps the forms. -/
theorem mmioWrite_inForm {s : State} (a n : Nat) (v : Word) (hs : s.InForm) : (s.mmioWrite a n v).InForm := by
  have same := mmioWrite_sameBehindRegisters s a n v
  exact hs.of_same same.mem same.das same.cfg same.msiLength (congrArg List.length same.pba)

/-- Every step keeps the forms. -/
theorem step_inForm {s t : State} (h : step s = .next t) (hs : s.InForm) : t.InForm := by
  refine step_preserves (P := State.InForm) ?agenda ?mmioRead ?mmioWrite ?beginTranslate ?advanceFlight ?hostWrite
    ?hostNoRead ?hostNoWrite ?hostPba ?endDrain ?stopDrain ?exec ?startDrain ?csrStep ?ddtpStep h hs
  case agenda | hostNoRead | hostNoWrite => exact fun s _ hs => hs.of_same rfl rfl rfl rfl rfl
  case mmioRead => exact fun s _ _ _ hs => hs.of_same rfl rfl rfl rfl rfl
  case mmioWrite => exact fun s a n v hs => mmioWrite_inForm a n v hs
  case beginTranslate => exact fun s did iova access hs => beginTranslate_inForm did iova access hs
  case advanceFlight => exact fun s f _ hs => advanceFlight_inForm f hs
  case hostWrite =>
    exact fun s a bs hs => hs.of_lengths (s.store_wf a bs hs.canonical.mem) hs.canonical.das rfl rfl rfl
  case hostPba => exact fun s i v hs => hs.of_same rfl rfl rfl rfl List.length_set
  case endDrain => exact fun s _ hs => hs.of_same (by simp) (by simp) (by simp) (by simp) (by simp)
  case stopDrain => exact fun s i _ _ hs => hs.of_same (by simp) (by simp) (by simp) (by simp) (by simp)
  case exec => exact fun i s t _ he hs => exec_inForm he hs
  case startDrain => exact fun s _ hs => hs.of_same rfl rfl rfl rfl rfl
  case csrStep => exact fun s q _ hs => hs.of_same (by simp) (by simp) (by simp) (by simp) (by simp)
  case ddtpStep => exact fun s _ hs => ddtpStep_inForm hs

/-! ### The directory mode and base -/

/-- The parameters and the active directory are the same. -/
structure State.SameDirectory (s t : State) : Prop where
  cfg : t.cfg = s.cfg
  mode : t.ddtMode = s.ddtMode
  base : t.ddtBase = s.ddtBase

theorem exec_sameDirectory {i : Instr} {s t : State} (h : exec i s = .next t) : s.SameDirectory t := by
  rcases exec_cases h with rfl | ⟨_, _, _, -, rfl⟩ | ⟨_, _, _, _, _, -, -, rfl⟩ | ⟨_, _, _, _, _, -, -, rfl⟩
  · exact ⟨rfl, rfl, rfl⟩
  · exact ⟨rfl, rfl, rfl⟩
  · exact ⟨rfl, rfl, rfl⟩
  · exact ⟨by simp, by simp, by simp⟩

theorem drainStep_sameDirectory {s t : State} (h : s.drainStep = .next t) : s.SameDirectory t := by
  rcases drainStep_cases h with ⟨-, rfl⟩ | ⟨-, -, rfl⟩ | ⟨_, _, -, -, -, rfl⟩ | ⟨_, i, -, -, -, hx⟩
  · exact ⟨by simp, by simp, by simp⟩
  · exact ⟨by simp, by simp, by simp⟩
  · exact ⟨by simp, by simp, by simp⟩
  · exact exec_sameDirectory hx

theorem advanceFlight_sameDirectory (s : State) (f : Flight) : s.SameDirectory (s.advanceFlight f) := by
  obtain ⟨u, fl, out, he, hu⟩ := advanceFlight_cases s f
  rw [he]
  rcases hu with rfl | ⟨dc, rfl⟩ | ⟨c, phys, rfl⟩
  · exact ⟨rfl, rfl, rfl⟩
  · exact ⟨rfl, rfl, rfl⟩
  · exact ⟨by simp, by simp, by simp⟩

/-- The processor's steps other than the DDTP step keep the directory; that one keeps the parameters (R290, R304). -/
theorem serve_sameDirectory {s t : State} {d : Dispatch} (h : s.serve d = .next t) :
    s.SameDirectory t ∨ t.cfg = s.cfg ∧ d = .ddtp := by
  cases d with
  | drain => exact .inl (drainStep_sameDirectory h)
  | startDrain =>
    cases h
    exact .inl ⟨rfl, rfl, rfl⟩
  | csr q =>
    cases h
    exact .inl ⟨by simp, by simp, by simp⟩
  | ddtp =>
    cases h
    exact .inr ⟨by simp, rfl⟩

/-- An agent's step keeps the directory unless it is the processor's DDTP step (R42, R304). -/
theorem perform_sameDirectory {s t : State} {e : Event} (h : s.perform e = .next t) :
    s.SameDirectory t ∨ t.cfg = s.cfg ∧ s.selected = some .ddtp ∧ e = .processor := by
  cases e with
  | mmioRead a n =>
    simp only [State.perform, performMmioRead] at h
    split at h
    · cases h
      exact .inl ⟨rfl, rfl, rfl⟩
    · cases h
  | mmioWrite a n v =>
    simp only [State.perform, performMmioWrite] at h
    split at h
    · cases h
      have same := mmioWrite_sameBehindRegisters s a n v
      exact .inl ⟨same.cfg, same.ddtMode, same.ddtBase⟩
    · cases h
  | translate did iova access =>
    cases h
    obtain ⟨c, tag, fl, out, -, he⟩ := beginTranslate_cases s did iova access
    rw [he]
    exact .inl ⟨rfl, rfl, rfl⟩
  | advance tag =>
    cases h
    unfold State.advance
    split
    · exact .inl (advanceFlight_sameDirectory s _)
    · exact .inl ⟨rfl, rfl, rfl⟩
  | processor =>
    rcases processorStep_cases h with ⟨d, hsel, hserve⟩ | ⟨-, rfl⟩
    · exact (serve_sameDirectory hserve).imp_right fun ⟨hcfg, hd⟩ => ⟨hcfg, hd ▸ hsel, rfl⟩
    · exact .inl ⟨rfl, rfl, rfl⟩
  | hostWrite a bs | hostNoRead rs | hostNoWrite rs | hostPba i v =>
    cases h
    exact .inl ⟨rfl, rfl, rfl⟩

/-- A step of the machine keeps the directory unless it is the processor's DDTP step (R42, R304). -/
theorem step_sameDirectory {s t : State} (h : step s = .next t) :
    s.SameDirectory t ∨
      t.cfg = s.cfg ∧ s.selected = some .ddtp ∧ (s.agenda = [] ∨ ∃ rest, s.agenda = .processor :: rest) := by
  rcases step_cases h with ⟨e, rest, ha, hp⟩ | ⟨ha, ⟨d, hsel, hserve⟩ | ⟨-, f, _, -, rfl⟩ | ⟨-, -, rfl⟩⟩
  · rcases perform_sameDirectory hp with ⟨hcfg, hmode, hbase⟩ | ⟨hcfg, hsel, rfl⟩
    · exact .inl ⟨hcfg, hmode, hbase⟩
    · exact .inr ⟨hcfg, hsel, .inr ⟨rest, ha⟩⟩
  · exact (serve_sameDirectory hserve).imp_right fun ⟨hcfg, hd⟩ => ⟨hcfg, hd ▸ hsel, .inl ha⟩
  · exact .inl (advanceFlight_sameDirectory s f)
  · exact .inl ⟨rfl, rfl, rfl⟩

end Sys2Proof.Machine

namespace Sys2Proof.Proofs

open Sys2Proof.Machine Sys2Proof.Claims

/-- Settles O56: each atomic step keeps the forms, by the laws of memory and of the cache. -/
theorem stepKeepsCanonicalForms : Obligations.StepKeepsCanonicalForms := by
  unfold Obligations.StepKeepsCanonicalForms
  intro s t hc ht h
  obtain ⟨canonical, tables⟩ := step_inForm h ⟨hc, ht⟩
  exact ⟨canonical, tables⟩

/-- Settles O59, by the agents' steps one after the other. -/
theorem onlyTheDdtpStepMovesTheDirectory : Obligations.OnlyTheDdtpStepMovesTheDirectory := by
  unfold Obligations.OnlyTheDdtpStepMovesTheDirectory
  intro s t h
  rcases step_sameDirectory h with same | ⟨hcfg, hsel, hagenda⟩
  · exact ⟨same.cfg, .inl ⟨same.mode, same.base⟩⟩
  · exact ⟨hcfg, .inr ⟨hsel, hagenda⟩⟩

end Sys2Proof.Proofs
end

section
/-! The register, queue, directory and drain invariants over every step. -/

namespace Sys2Proof.Machine

/-! ### Fields of updated words -/

theorem getLsbD_field {w : Nat} (v : BitVec w) (lo len i : Nat) :
    (field v lo len).getLsbD i = (decide (i < len) && v.getLsbD (lo + i)) := by
  simp [field]

theorem getLsbD_withField {w len : Nat} (v : BitVec w) (lo : Nat) (x : BitVec len) (i : Nat) (h : lo + len ≤ w) :
    (withField v lo len x).getLsbD i = if lo ≤ i ∧ i < lo + len then x.getLsbD (i - lo) else v.getLsbD i := by
  simp only [withField, BitVec.getLsbD_or, BitVec.getLsbD_and, BitVec.getLsbD_not, BitVec.getLsbD_shiftLeft,
    BitVec.getLsbD_setWidth, BitVec.getLsbD_allOnes]
  split
  · have h1 : i < w := by omega
    have h2 : ¬ i < lo := by omega
    have h3 : i - lo < len := by omega
    have h4 : i - lo < w := by omega
    simp [h1, h2, h3, h4]
  · rcases Nat.lt_or_ge i w with h1 | h1
    · rcases Nat.lt_or_ge i lo with h2 | h2
      · simp [h1, h2]
      · have h3 : ¬ i - lo < len := by omega
        simp [h1, h3, BitVec.getLsbD_of_ge x (i - lo) (by omega)]
    · simp [Nat.not_lt.mpr h1, BitVec.getLsbD_of_ge v i h1]

theorem field_withField_same {w len : Nat} (v : BitVec w) (lo : Nat) (x : BitVec len) (h : lo + len ≤ w) :
    field (withField v lo len x) lo len = x := by
  apply BitVec.eq_of_getLsbD_eq
  intro i hi
  rw [getLsbD_field, getLsbD_withField _ _ _ _ h, if_pos (by omega)]
  simp [hi]

theorem field_withField_other {w len : Nat} (v : BitVec w) (lo : Nat) (x : BitVec len) (lo' len' : Nat)
    (h : lo + len ≤ w) (hd : lo + len ≤ lo' ∨ lo' + len' ≤ lo) :
    field (withField v lo len x) lo' len' = field v lo' len' := by
  apply BitVec.eq_of_getLsbD_eq
  intro i hi
  rw [getLsbD_field, getLsbD_field, getLsbD_withField _ _ _ _ h, if_neg (by omega)]

theorem field_withBit_other {w : Nat} (v : BitVec w) (k : Nat) (b : Bool) (lo len : Nat) (h : k < lo ∨ lo + len ≤ k) :
    field (withBit v k b) lo len = field v lo len := by
  apply BitVec.eq_of_getLsbD_eq
  intro i hi
  rw [getLsbD_field, getLsbD_field, getLsbD_withBit, if_neg (by omega)]

/-- Bits that read 0 still do when none of them is newly set. -/
theorem and_eq_zero_of_bits {w : Nat} {v v' m : BitVec w} (h : v &&& m = 0)
    (hb : ∀ i, m.getLsbD i = true → v'.getLsbD i = true → v.getLsbD i = true) : v' &&& m = 0 := by
  apply BitVec.eq_of_getLsbD_eq
  intro i _
  have old : (v &&& m).getLsbD i = false := by rw [h]; exact BitVec.getLsbD_zero
  rw [BitVec.getLsbD_and] at old ⊢
  rw [show (0 : BitVec w).getLsbD i = false from BitVec.getLsbD_zero]
  by_contra hne
  obtain ⟨hv, hm⟩ := (Bool.and_eq_true _ _).mp (Bool.eq_true_of_not_eq_false hne)
  simp [hb i hm hv, hm] at old

/-- A bit outside the mask may be set. -/
theorem withBit_true_and_eq_zero {w : Nat} {v m : BitVec w} {k : Nat} (h : v &&& m = 0)
    (hk : m.getLsbD k = false) : withBit v k true &&& m = 0 := by
  refine and_eq_zero_of_bits h fun i hm hv => ?_
  have hne : k ≠ i := fun e => by simp [← e, hk] at hm
  rwa [getLsbD_withBit, if_neg hne] at hv

/-- A cleared bit is not newly set. -/
theorem withBit_false_and_eq_zero {w : Nat} {v m : BitVec w} (k : Nat) (h : v &&& m = 0) :
    withBit v k false &&& m = 0 := by
  refine and_eq_zero_of_bits h fun i _ hv => ?_
  rw [getLsbD_withBit] at hv
  split at hv
  · simp at hv
  · exact hv

/-- A field outside the mask may change. -/
theorem withField_and_eq_zero {w len : Nat} {v m : BitVec w} {lo : Nat} (x : BitVec len) (h : v &&& m = 0)
    (hw : lo + len ≤ w) (hm : field m lo len = 0) : withField v lo len x &&& m = 0 := by
  refine and_eq_zero_of_bits h fun i hi hv => ?_
  rw [getLsbD_withField _ _ _ _ hw, if_neg] at hv
  · exact hv
  · rintro ⟨hlo, hlt⟩
    have hzero : (field m lo len).getLsbD (i - lo) = false := by rw [hm]; exact BitVec.getLsbD_zero
    rw [getLsbD_field, Nat.add_sub_cancel' hlo, hi] at hzero
    simp at hzero
    omega

/-! ### The shape of a queue -/

theorem lowMask_ne_zero {k : Nat} (h1 : 1 ≤ k) (h32 : k ≤ 32) : lowMask k ≠ 0 := by
  have hlo : 2 ^ 1 ≤ 2 ^ k := Nat.pow_le_pow_right (by decide) h1
  have hhi : 2 ^ k ≤ 2 ^ 32 := Nat.pow_le_pow_right (by decide) h32
  intro h
  have := congrArg BitVec.toNat h
  simp only [lowMask, BitVec.toNat_ofNat, BitVec.ofNat_eq_ofNat] at this
  omega

/-- Shape speaks of the latched descriptor, the armed flag and ACTIVE alone. -/
theorem Queue.Shaped.congr {q v : Queue} (h : q.Shaped) (base : v.base = q.base) (mask : v.mask = q.mask)
    (armed : v.armed = q.armed) (active : bit v.csr activeBit = bit q.csr activeBit) : v.Shaped where
  base := base ▸ h.base
  mask := mask ▸ h.mask
  armed := by rw [armed, active, h.armed]
  active ha := mask ▸ h.active (active ▸ ha)

/-- An enable transition latches a page-aligned base and a nonzero mask and arms the queue (R275). -/
theorem enabledQueue_shaped (q : QueueId) (v : Queue) : (enabledQueue q v).Shaped := by
  have size : (queueLog2 v.qb).toNat < 2 ^ 5 := (queueLog2 v.qb).isLt
  have active : bit (enabledQueue q v).csr activeBit = true := bit_withBit_same _ _ _ (by decide)
  exact {
    base := ⟨queuePpn v.qb, rfl⟩
    mask := .inr ⟨(queueLog2 v.qb).toNat + 1, by omega, by omega, rfl⟩
    armed := active.symm
    active := fun _ => lowMask_ne_zero (by omega) (by omega) }

/-- A disable transition disarms the queue with ACTIVE (R276). -/
theorem disabledQueue_shaped {v : Queue} (h : v.Shaped) : (disabledQueue v).Shaped := by
  have inactive : bit (disabledQueue v).csr activeBit = false := bit_withBit_same _ _ _ (by decide)
  exact {
    base := h.base
    mask := h.mask
    armed := inactive.symm
    active := fun ha => by simp [inactive] at ha }

theorem controlTransition_shaped (q : QueueId) {v : Queue} (h : v.Shaped) : (controlTransition q v).Shaped := by
  unfold controlTransition
  split
  · exact enabledQueue_shaped q v
  · split
    · exact disabledQueue_shaped h
    · exact h

theorem clearBusy_shaped {v : Queue} (h : v.Shaped) : (clearBusy v).Shaped :=
  h.congr rfl rfl rfl (bit_withBit_other _ _ (by decide))

/-! ### Reserved bits of the queue registers -/

/-- The bits of a queue's CSR that always read 0 (R33 to R35). -/
def csrReserved : QueueId → Reg32
  | .cq => 0xFFFCFAFC
  | .fq => 0xFFFCFCFC
  | .pq => 0xFFFCFFFC

theorem State.ReservedZero.csr {s : State} (h : s.ReservedZero) (q : QueueId) :
    (s.queue q).csr &&& csrReserved q = 0 := by
  cases q
  · exact h.cqcsr
  · exact h.fqcsr
  · exact h.pqcsr

/-- Clearing the error bits of an enable transition sets nothing. -/
theorem clearErrors_reserved (q : QueueId) {csr : Reg32} (h : csr &&& csrReserved q = 0) :
    clearErrors q csr &&& csrReserved q = 0 := by
  cases q <;> exact withBit_false_and_eq_zero _ (withBit_false_and_eq_zero _ h)

/-- A control transition sets ACTIVE at most, and keeps the base register (R275, R276). -/
theorem controlTransition_reserved (q : QueueId) {v : Queue} (h : v.csr &&& csrReserved q = 0) :
    (controlTransition q v).csr &&& csrReserved q = 0 ∧ (controlTransition q v).qb = v.qb := by
  have active : (csrReserved q).getLsbD activeBit = false := by cases q <;> decide
  unfold controlTransition
  split
  · exact ⟨withBit_true_and_eq_zero (clearErrors_reserved q h) active, rfl⟩
  · split
    · exact ⟨withBit_false_and_eq_zero _ h, rfl⟩
    · exact ⟨h, rfl⟩

/-! ### The register invariants, by the parts of the state that they speak of -/

/-- The invariants of the registers, of the queues, of the directory and of the drain pass. -/
structure State.RegisterInv (s : State) : Prop where
  reserved : s.ReservedZero
  queues : s.QueuesShaped
  directory : s.DirectoryShown
  drain : s.DrainGuarded

theorem State.QueuesShaped.queue {s : State} (h : s.QueuesShaped) (q : QueueId) : (s.queue q).Shaped := by
  cases q
  · exact h.cq
  · exact h.fq
  · exact h.pq

/-- The fields that the register invariants speak of. -/
def State.registerView (s : State) :
    Word × Queue × Queue × Queue × Reg32 × Word × List MsiEntry × DdtMode × Word × Bool :=
  (s.ddtp, s.cq, s.fq, s.pq, s.ipsr, s.icvec, s.msi, s.ddtMode, s.ddtBase, s.cqDraining)

/-- A change of any other field keeps them. -/
theorem State.RegisterInv.congr {s t : State} (h : s.RegisterInv) (e : t.registerView = s.registerView) :
    t.RegisterInv := by
  obtain ⟨hr, hq, hd, hg⟩ := h
  cases s
  cases t
  simp only [State.registerView, Prod.mk.injEq] at e
  obtain ⟨rfl, rfl, rfl, rfl, rfl, rfl, rfl, rfl, rfl, rfl⟩ := e
  exact ⟨{ hr with }, { hq with }, { hd with }, hg⟩

/-- Setting CIP or FIP keeps the invariants: the other bits of IPSR stay 0 (R36). -/
theorem State.RegisterInv.pendingSet {s : State} (h : s.RegisterInv) {i : Nat}
    (hi : (0xFFFFFFFC : Reg32).getLsbD i = false) :
    ({ s with ipsr := withBit s.ipsr i true } : State).RegisterInv where
  reserved := { h.reserved with ipsr := withBit_true_and_eq_zero h.reserved.ipsr hi }
  queues := { h.queues with }
  directory := { h.directory with }
  drain := h.drain

/-- The end of a pass keeps the invariants: the guard speaks of a pass under way. -/
theorem State.RegisterInv.drainingSet {s : State} (h : s.RegisterInv) {b : Bool}
    (hb : b = true → drainAllowed s.cq.csr = true) : ({ s with cqDraining := b } : State).RegisterInv where
  reserved := { h.reserved with }
  queues := { h.queues with }
  directory := { h.directory with }
  drain := hb

/-- A queue replaced by one that meets its part of the invariants. -/
theorem State.RegisterInv.setQueue {s : State} (h : s.RegisterInv) (q : QueueId) {v : Queue}
    (qb : v.qb = (s.queue q).qb) (csr : v.csr &&& csrReserved q = 0) (shaped : v.Shaped)
    (drain : q = .cq → s.cqDraining = true → drainAllowed v.csr = true) : (s.setQueue q v).RegisterInv where
  reserved := by
    have bases : ∀ p, ((s.setQueue q v).queue p).qb &&& 0xFFC00000000003E0 = 0 := by
      intro p
      by_cases e : p = q
      · subst e
        rw [State.queue_setQueue_same, qb]
        exact h.reserved.bases p
      · rw [s.queue_setQueue_other q p v e]
        exact h.reserved.bases p
    cases q
    · exact { h.reserved with bases := bases, cqcsr := csr }
    · exact { h.reserved with bases := bases, fqcsr := csr }
    · exact { h.reserved with bases := bases, pqcsr := csr }
  queues := by
    cases q
    · exact { h.queues with cq := shaped }
    · exact { h.queues with fq := shaped }
    · exact { h.queues with pq := shaped }
  directory := by cases q <;> exact { h.directory with }
  drain := by
    cases q
    · exact drain rfl
    · exact h.drain
    · exact h.drain

/-- A queue that changes in its indices alone. -/
theorem State.RegisterInv.setIndices {s : State} (h : s.RegisterInv) (q : QueueId) (qh qt : Reg32) :
    (s.setQueue q { s.queue q with qh := qh, qt := qt }).RegisterInv :=
  h.setQueue q rfl (h.reserved.csr q) ((h.queues.queue q).congr rfl rfl rfl rfl)
    (fun e hd => by subst e; exact h.drain hd)

/-- A status bit of a queue that is no reserved bit is set, outside a drain pass of that queue. -/
theorem State.RegisterInv.setStatus {s : State} (h : s.RegisterInv) (q : QueueId) {i : Nat}
    (hres : (csrReserved q).getLsbD i = false) (hact : i ≠ activeBit) (hd : q = .cq → s.cqDraining = false) :
    (s.setQueue q { s.queue q with csr := withBit (s.queue q).csr i true }).RegisterInv :=
  h.setQueue q rfl (withBit_true_and_eq_zero (h.reserved.csr q) hres)
    ((h.queues.queue q).congr rfl rfl rfl (bit_withBit_other _ _ hact))
    (fun e hdr => by simp [hd e] at hdr)

/-! ### The register invariants over the block's operations -/

theorem State.RegisterInv.store {s : State} (h : s.RegisterInv) (a : Word) (bs : List Byte) :
    (s.store a bs).RegisterInv := h.congr rfl

theorem State.RegisterInv.failedStore {s : State} (h : s.RegisterInv) (a : Word) (n : Nat) :
    (s.failedStore a n).RegisterInv := h.congr rfl

theorem State.RegisterInv.endDrain {s : State} (h : s.RegisterInv) : s.endDrain.RegisterInv := by
  have ended : ({ s with cqDraining := false } : State).RegisterInv := h.drainingSet (by simp)
  rw [State.endDrain_eq]
  split
  · exact (ended.pendingSet (i := 0) (by decide)).congr rfl
  · exact ended.congr rfl

theorem State.RegisterInv.stopDrain {s : State} (h : s.RegisterInv) {i : Nat} (hi : i = faultBit ∨ i = errorBit) :
    (s.stopDrain i).RegisterInv := by
  have hres : (csrReserved .cq).getLsbD i = false := by rcases hi with rfl | rfl <;> decide
  have hirq : i ≠ irqEnableBit := by rcases hi with rfl | rfl <;> decide
  have hact : i ≠ activeBit := by rcases hi with rfl | rfl <;> decide
  have ended : ({ s with cqDraining := false } : State).RegisterInv := h.drainingSet (by simp)
  have marked := ended.setStatus .cq hres hact (fun _ => rfl)
  rw [State.stopDrain_eq s i hirq]
  split
  · exact (marked.pendingSet (i := 0) (by decide)).congr rfl
  · exact marked.congr rfl

theorem State.RegisterInv.commandDone {s : State} (h : s.RegisterInv) : s.commandDone.RegisterInv :=
  h.setIndices .cq _ s.cq.qt

theorem State.RegisterInv.exec {i : Instr} {s t : State} (h : s.RegisterInv) (he : exec i s = .next t) :
    t.RegisterInv := by
  rcases exec_cases he with rfl | ⟨_, _, _, -, rfl⟩ | ⟨_, _, _, _, _, -, -, rfl⟩ | ⟨_, _, _, _, addr, -, -, rfl⟩
  · exact h.commandDone
  · exact h.commandDone.congr rfl
  · exact h.commandDone.congr rfl
  · exact (h.failedStore _ 4).stopDrain (.inl rfl)

theorem State.RegisterInv.csrStep {s : State} (h : s.RegisterInv) (q : QueueId) (hd : s.cqDraining = false) :
    (s.csrStep q).RegisterInv := by
  obtain ⟨csr, qb⟩ := controlTransition_reserved q (h.reserved.csr q)
  exact h.setQueue q qb (withBit_false_and_eq_zero _ csr)
    (clearBusy_shaped (controlTransition_shaped q (h.queues.queue q))) (fun _ hdr => by simp [hd] at hdr)

theorem State.RegisterInv.recordWritten {s : State} (h : s.RegisterInv) : s.recordWritten.RegisterInv := by
  have advanced := h.setIndices .fq s.fq.qh ((s.fq.next s.fq.tail).setWidth 32)
  rw [State.recordWritten_eq]
  split
  · exact (advanced.pendingSet (i := 1) (by decide)).congr rfl
  · exact advanced.congr rfl

theorem State.RegisterInv.report {s : State} (h : s.RegisterInv) (did : Word) (c : Cause) (ttyp : BitVec 6)
    (iova phys : Word) : (s.report did c ttyp iova phys).RegisterInv := by
  rcases s.report_cases did c ttyp iova phys with ⟨-, e⟩ | ⟨-, -, e⟩ | ⟨-, -, -, e⟩ | ⟨-, -, -, e⟩ <;> rw [e]
  · exact h
  · exact h.setStatus .fq (by decide) (by decide) (by simp)
  · exact (h.failedStore _ 32).setStatus .fq (by decide) (by decide) (by simp)
  · exact (h.store _ _).recordWritten

theorem State.RegisterInv.advanceFlight {s : State} (h : s.RegisterInv) (f : Flight) :
    (s.advanceFlight f).RegisterInv := by
  obtain ⟨u, fl, out, he, hu⟩ := advanceFlight_cases s f
  rw [he]
  rcases hu with rfl | ⟨dc, rfl⟩ | ⟨c, phys, rfl⟩
  · exact h.congr rfl
  · exact h.congr rfl
  · exact (h.report f.did c (ttypOf f.access) f.iova phys).congr rfl

/-! ### The register invariants over a directory-pointer change -/

@[simp] theorem ddtModeOfCode_ddtModeCode (m : DdtMode) : ddtModeOfCode (ddtModeCode m) = some m := by
  cases m <;> rfl

/-- The page number of a page's address. -/
theorem setWidth_pageAddr_shift (ppn : BitVec 44) : (pageAddr ppn >>> 12).setWidth 44 = ppn := by
  apply BitVec.eq_of_getLsbD_eq
  intro i hi
  have hi' : 12 + i < 64 := by omega
  have hi'' : i < 64 := by omega
  simp [pageAddr, hi, hi', hi'']

/-- Clearing BUSY leaves the mode and page number of DDTP. -/
theorem ddtp_clearBusy (v : Word) :
    ddtpMode (withBit v ddtpBusyBit false) = ddtpMode v ∧ ddtpPpn (withBit v ddtpBusyBit false) = ddtpPpn v :=
  ⟨field_withBit_other v _ _ 0 4 (by decide), field_withBit_other v _ _ 10 44 (by decide)⟩

theorem State.RegisterInv.adoptDdtp {s : State} (h : s.RegisterInv) {m : DdtMode}
    (hm : ddtModeOfCode (ddtpMode s.ddtp) = some m) : (s.adoptDdtp m).RegisterInv := by
  obtain ⟨mode, page⟩ := ddtp_clearBusy s.ddtp
  exact {
    reserved := { h.reserved with ddtp := withBit_false_and_eq_zero _ h.reserved.ddtp }
    queues := { h.queues with }
    directory := {
      base := ⟨ddtpPpn s.ddtp, rfl⟩
      mode := fun _ => (congrArg ddtModeOfCode mode).trans hm
      page := fun _ => congrArg pageAddr page }
    drain := h.drain }

theorem State.RegisterInv.rejectDdtp {s : State} (h : s.RegisterInv) : s.rejectDdtp.RegisterInv := by
  obtain ⟨ppn, hppn⟩ := h.directory.base
  obtain ⟨mode, page⟩ := ddtp_clearBusy
    (withField (withField s.ddtp 0 4 (ddtModeCode s.ddtMode)) 10 44 ((s.ddtBase >>> 12).setWidth 44))
  have hmode : ddtpMode s.rejectDdtp.ddtp = ddtModeCode s.ddtMode := by
    refine mode.trans ?_
    rw [ddtpMode, field_withField_other _ _ _ _ _ (by decide) (by decide), field_withField_same _ _ _ (by decide)]
  have hpage : ddtpPpn s.rejectDdtp.ddtp = ppn := by
    refine page.trans ?_
    rw [ddtpPpn, field_withField_same _ _ _ (by decide), hppn, setWidth_pageAddr_shift]
  exact {
    reserved := { h.reserved with
      ddtp := withBit_false_and_eq_zero _
        (withField_and_eq_zero _ (withField_and_eq_zero _ h.reserved.ddtp (by decide) (by decide))
          (by decide) (by decide)) }
    queues := { h.queues with }
    directory := {
      base := h.directory.base
      mode := fun _ => by rw [hmode, ddtModeOfCode_ddtModeCode, State.rejectDdtp_ddtMode]
      page := fun _ => by rw [hpage, State.rejectDdtp_ddtBase, hppn] }
    drain := h.drain }

theorem State.RegisterInv.ddtpStep {s : State} (h : s.RegisterInv) : s.ddtpStep.RegisterInv := by
  rcases ddtpStep_cases s with ⟨m, hm, e⟩ | e <;> rw [e]
  · exact h.adoptDdtp hm
  · exact h.rejectDdtp

/-! ### The register invariants over an MMIO write -/

/-- Read-only bits that read 0 still do after an MMIO write, BUSY aside (R152, R153). -/
theorem readReg_mmioWrite_and_eq_zero {s : State} {r : Reg} {m : Word} (a n : Nat) (v : Word)
    (hm : m &&& (~~~r.ro ||| Claims.busyMask r) = 0) (h : s.readReg r &&& m = 0) :
    (s.mmioWrite a n v).readReg r &&& m = 0 := by
  refine and_eq_zero_of_bits h fun i hi => ?_
  have out : (m &&& (~~~r.ro ||| Claims.busyMask r)).getLsbD i = false := by rw [hm]; exact BitVec.getLsbD_zero
  have hi64 : i < 64 := BitVec.lt_of_getLsbD hi
  rw [BitVec.getLsbD_and, hi, BitVec.getLsbD_or, getLsbD_busyMask, BitVec.getLsbD_not] at out
  simp only [hi64, decide_true, Bool.true_and, Bool.or_eq_false_iff, Bool.not_eq_false', decide_eq_false_iff_not] at out
  exact (mmioWrite_keepsReadOnly s a n v r i out.1 out.2).2

/-- A mask on a 4-byte register, on its value as read. -/
theorem setWidth_and_eq_zero_iff (x m : Reg32) : x.setWidth 64 &&& m.setWidth 64 = 0 ↔ x &&& m = 0 := by
  rw [← BitVec.setWidth_and]
  constructor
  · intro h
    have low := congrArg (BitVec.setWidth 32) h
    rwa [BitVec.setWidth_setWidth_of_le _ (by decide), BitVec.setWidth_eq] at low
  · intro h
    rw [h]
    rfl

theorem State.ReservedZero.mmioWrite {s : State} (h : s.ReservedZero) (a n : Nat) (v : Word) :
    (s.mmioWrite a n v).ReservedZero := by
  have csr : ∀ q, ((s.mmioWrite a n v).queue q).csr &&& csrReserved q = 0 := fun q =>
    (setWidth_and_eq_zero_iff _ _).mp
      (readReg_mmioWrite_and_eq_zero (r := .csr q) a n v (by cases q <;> decide)
        ((setWidth_and_eq_zero_iff _ _).mpr (h.csr q)))
  have entry : ∀ e ∈ (s.mmioWrite a n v).msi, e.addr &&& 0xFF00000000000003 = 0 ∧ e.ctrl &&& 0xFFFFFFFE = 0 := by
    intro e he
    obtain ⟨k, hk, rfl⟩ := List.getElem_of_mem he
    have hk' : k < s.msi.length := by rwa [(mmioWrite_sameBehindRegisters s a n v).msiLength] at hk
    obtain ⟨oldAddr, oldCtrl⟩ := h.msi _ (List.getElem_mem hk')
    have addr := readReg_mmioWrite_and_eq_zero (s := s) (r := .msiAddr k) (m := 0xFF00000000000003) a n v
      (by simp only [Reg.ro, Claims.busyMask]; decide)
      (by simpa [State.readReg, hk'] using oldAddr)
    have ctrl := readReg_mmioWrite_and_eq_zero (s := s) (r := .msiCtrl k) (m := (0xFFFFFFFE : Reg32).setWidth 64) a n v
      (by simp only [Reg.ro, Claims.busyMask]; decide)
      (by simpa only [State.readReg, List.getD_eq_getElem _ _ hk', setWidth_and_eq_zero_iff] using oldCtrl)
    simp only [State.readReg, List.getD_eq_getElem _ _ hk, setWidth_and_eq_zero_iff] at addr ctrl
    exact ⟨addr, ctrl⟩
  exact {
    ddtp := readReg_mmioWrite_and_eq_zero (r := .ddtp) a n v (by decide) h.ddtp
    bases := fun q => readReg_mmioWrite_and_eq_zero (r := .base q) a n v (by cases q <;> decide) (h.bases q)
    cqcsr := csr .cq
    fqcsr := csr .fq
    pqcsr := csr .pq
    ipsr := (setWidth_and_eq_zero_iff _ _).mp
      (readReg_mmioWrite_and_eq_zero (r := .ipsr) a n v (by decide) ((setWidth_and_eq_zero_iff _ _).mpr h.ipsr))
    icvec := readReg_mmioWrite_and_eq_zero (r := .icvec) a n v (by decide) h.icvec
    msi := entry }

/-- A read-only CSR bit other than BUSY after an MMIO write (R33 to R35, R153). -/
theorem bit_csr_mmioWrite (s : State) (q : QueueId) (a n : Nat) (v : Word) {i : Nat}
    (hro : (Reg.ro (.csr q)).getLsbD i = true) (hbusy : i ≠ busyBit) :
    ((Reg.wc (.csr q)).getLsbD i = false →
      bit ((s.mmioWrite a n v).queue q).csr i = bit (s.queue q).csr i) ∧
    (bit ((s.mmioWrite a n v).queue q).csr i = true → bit (s.queue q).csr i = true) := by
  have hi : i < 64 := BitVec.lt_of_getLsbD hro
  simpa [State.readReg, bit, hi] using
    mmioWrite_keepsReadOnly s a n v (.csr q) i hro (by simpa [busyBitOf] using hbusy.symm)

/-- Software cannot write ACTIVE (R33 to R35). -/
theorem active_mmioWrite (s : State) (q : QueueId) (a n : Nat) (v : Word) :
    bit ((s.mmioWrite a n v).queue q).csr activeBit = bit (s.queue q).csr activeBit :=
  (bit_csr_mmioWrite s q a n v (by cases q <;> decide) (by decide)).1 (by cases q <;> decide)

/-- A drain pass may start still after an MMIO write: ACTIVE is read-only, and software can only clear the error bits
(R33, R279). -/
theorem drainAllowed_mmioWrite {s : State} (h : drainAllowed s.cq.csr = true) (a n : Nat) (v : Word) :
    drainAllowed (s.mmioWrite a n v).cq.csr = true := by
  have active := active_mmioWrite s .cq a n v
  have fault := (bit_csr_mmioWrite s .cq a n v (i := faultBit) (by decide) (by decide)).2
  have error := (bit_csr_mmioWrite s .cq a n v (i := errorBit) (by decide) (by decide)).2
  simp only [State.queue] at active fault error
  simp only [drainAllowed, Bool.and_eq_true, Bool.not_eq_true'] at h ⊢
  obtain ⟨⟨hactive, hfault⟩, herror⟩ := h
  exact ⟨⟨active.trans hactive, Bool.eq_false_iff.mpr fun hb => by simp [fault hb] at hfault⟩,
    Bool.eq_false_iff.mpr fun hb => by simp [error hb] at herror⟩

/-- An MMIO write leaves DDTP as it was or sets its BUSY bit (R155). -/
theorem ddtp_mmioWrite (s : State) (a n : Nat) (v : Word) :
    bit (s.mmioWrite a n v).ddtp ddtpBusyBit = true ∨ (s.mmioWrite a n v).ddtp = s.ddtp := by
  have after := readReg_writeSideEffects (s.writeWindow a (leBytes n v.toNat)) a n .ddtp
  simp only [busyBitOf] at after
  change (s.mmioWrite a n v).ddtp = _ at after
  rw [after]
  split
  · exact .inl (bit_withBit_same _ _ _ (by decide))
  · rename_i hover
    refine .inr (BitVec.eq_of_getLsbD_eq fun i _ => ?_)
    rw [readReg_writeWindow s a _ .ddtp i trivial trivial, if_neg]
    · rfl
    · rintro ⟨hlo, hhi, hw⟩
      rw [leBytes_length] at hhi
      exact hover ((overlaps_iff _ _ _).mpr ⟨_, hlo, hhi, by omega, by omega⟩)

theorem State.DirectoryShown.mmioWrite {s : State} (h : s.DirectoryShown) (a n : Nat) (v : Word) :
    (s.mmioWrite a n v).DirectoryShown := by
  have same := mmioWrite_sameBehindRegisters s a n v
  refine ⟨same.ddtBase ▸ h.base, fun hb => ?_, fun hb => ?_⟩ <;>
    rcases ddtp_mmioWrite s a n v with busy | kept
  · simp [busy] at hb
  · rw [kept] at hb ⊢
    rw [same.ddtMode, h.mode hb]
  · simp [busy] at hb
  · rw [kept] at hb ⊢
    rw [same.ddtBase, h.page hb]

theorem State.RegisterInv.mmioWrite {s : State} (h : s.RegisterInv) (a n : Nat) (v : Word) :
    (s.mmioWrite a n v).RegisterInv := by
  have same := mmioWrite_sameBehindRegisters s a n v
  have shaped : ∀ q, ((s.mmioWrite a n v).queue q).Shaped := fun q =>
    (h.queues.queue q).congr (same.base q) (same.mask q) (same.armed q) (active_mmioWrite s q a n v)
  exact {
    reserved := h.reserved.mmioWrite a n v
    queues := ⟨shaped .cq, shaped .fq, shaped .pq⟩
    directory := h.directory.mmioWrite a n v
    drain := fun hd => drainAllowed_mmioWrite (h.drain (same.cqDraining ▸ hd)) a n v }

/-- Every step keeps the register invariants. -/
theorem step_registerInv {s t : State} (h : step s = .next t) (hs : s.RegisterInv) : t.RegisterInv := by
  refine step_preserves (P := State.RegisterInv) ?agenda ?mmioRead ?mmioWrite ?beginTranslate ?advanceFlight ?hostWrite
    ?hostNoRead ?hostNoWrite ?hostPba ?endDrain ?stopDrain ?exec ?startDrain ?csrStep ?ddtpStep h hs
  case agenda | hostNoRead | hostNoWrite => exact fun s _ hs => hs.congr rfl
  case mmioRead => exact fun s _ _ _ hs => hs.congr rfl
  case mmioWrite => exact fun s a n v hs => hs.mmioWrite a n v
  case beginTranslate =>
    intro s did iova access hs
    obtain ⟨c, tag, fl, out, -, he⟩ := beginTranslate_cases s did iova access
    rw [he]
    exact hs.congr rfl
  case advanceFlight => exact fun s f _ hs => hs.advanceFlight f
  case hostWrite => exact fun s a bs hs => hs.store a bs
  case hostPba => exact fun s i v hs => hs.congr rfl
  case endDrain => exact fun s _ hs => hs.endDrain
  case stopDrain => exact fun s i _ hi hs => hs.stopDrain hi
  case exec => exact fun i s t _ he hs => hs.exec he
  case startDrain =>
    intro s idle hs
    exact (hs.drainingSet (b := drainAllowed s.cq.csr || s.cqDraining) (by simp [idle])).congr rfl
  case csrStep => exact fun s q idle hs => hs.csrStep q idle
  case ddtpStep => exact fun s _ hs => hs.ddtpStep

end Sys2Proof.Machine

namespace Sys2Proof.Proofs

open Sys2Proof.Machine Sys2Proof.Claims

/-- Settles O57: each of the block's operations keeps the four invariants together. -/
theorem stepKeepsRegisterInvariants : Obligations.StepKeepsRegisterInvariants := by
  unfold Obligations.StepKeepsRegisterInvariants
  intro s t hr hq hd hg h
  obtain ⟨reserved, queues, directory, drain⟩ := step_registerInv h ⟨hr, hq, hd, hg⟩
  exact ⟨reserved, queues, directory, drain⟩

end Sys2Proof.Proofs
end

section
/-! The encoder undone by the decoder, and the command that `withFetchWord` places. -/

namespace Sys2Proof.Machine

/-! ### Fields of an encoded word -/

theorem bit_or {w : Nat} (x y : BitVec w) (i : Nat) : bit (x ||| y) i = (bit x i || bit y i) := BitVec.getLsbD_or

theorem field_or {w : Nat} (x y : BitVec w) (lo len : Nat) :
    field (x ||| y) lo len = field x lo len ||| field y lo len := BitVec.extractLsb'_or

theorem getLsbD_place {n : Nat} (v : BitVec n) (lo i : Nat) :
    (place v lo).getLsbD i = (decide (lo ≤ i ∧ i < 64) && v.getLsbD (i - lo)) := by
  rw [place, BitVec.getLsbD_shiftLeft, BitVec.getLsbD_setWidth]
  by_cases h : lo ≤ i ∧ i < 64
  · have h2 : ¬ i < lo := by omega
    have h3 : i - lo < 64 := by omega
    simp [h, h2, h3]
  · rcases not_and_or.mp h with h1 | h1
    · simp [Nat.not_le.mp h1]
    · simp [h1]

/-- A field placed elsewhere leaves a bit 0. -/
theorem bit_place_other {n : Nat} (v : BitVec n) {lo i : Nat} (h : i < lo ∨ lo + n ≤ i) :
    bit (place v lo) i = false := by
  rw [bit, getLsbD_place]
  rcases h with h | h
  · simp [h]
  · rw [BitVec.getLsbD_of_ge v (i - lo) (by omega), Bool.and_false]

theorem bit_place_ofBool (b : Bool) {i : Nat} (h : i < 64) : bit (place (BitVec.ofBool b) i) i = b := by
  rw [bit, getLsbD_place]
  simp [h]

/-- A field is read back where it was placed. -/
theorem field_place_same {n : Nat} (v : BitVec n) {lo : Nat} (h : lo + n ≤ 64) : field (place v lo) lo n = v := by
  apply BitVec.eq_of_getLsbD_eq
  intro i hi
  have hlt : lo + i < 64 := by omega
  rw [getLsbD_field, getLsbD_place]
  simp [hi, hlt]

/-- A field placed elsewhere leaves a field 0. -/
theorem field_place_other {n : Nat} (v : BitVec n) {lo lo' len : Nat} (h : lo' + len ≤ lo ∨ lo + n ≤ lo') :
    field (place v lo) lo' len = 0 := by
  apply BitVec.eq_of_getLsbD_eq
  intro i hi
  have other : bit (place v lo) (lo' + i) = false := bit_place_other v (by omega)
  rw [bit] at other
  rw [getLsbD_field, other, Bool.and_false]
  exact BitVec.getLsbD_zero.symm

/-! ### The decoder undoes the encoder -/

theorem opcodeOf_code (o : Opcode) : opcodeOf o.code = some o := by cases o <;> rfl

theorem encodedOpcode (i : Instr) : Laws.EncodedOpcode.Statement i := by
  cases i
  · exact Laws.EncodedOpcode.iotinvalVma ..
  · exact Laws.EncodedOpcode.iotinvalGvma ..
  · exact Laws.EncodedOpcode.iofenceC ..
  · exact Laws.EncodedOpcode.iodirInvDdt ..
  · exact Laws.EncodedOpcode.iodirPreDdt ..
  · exact Laws.EncodedOpcode.iodirInvPdt ..
  · exact Laws.EncodedOpcode.iodirPrePdt ..
  · exact Laws.EncodedOpcode.atsInval ..
  · exact Laws.EncodedOpcode.atsPrgr ..

/-- Clearing the two low bits of a 4-byte aligned address changes nothing (R74, R126). -/
theorem and_not_three_of_aligned {addr : Word} (h : fenceAddressAligned addr = true) : addr &&& ~~~3 = addr := by
  have low : addr &&& 3 = 0 := by simpa [fenceAddressAligned] using h
  apply BitVec.eq_of_getLsbD_eq
  intro i hi
  have bits : (addr &&& 3).getLsbD i = false := by rw [low]; exact BitVec.getLsbD_zero
  rw [BitVec.getLsbD_and] at bits ⊢
  rw [BitVec.getLsbD_not, decide_eq_true hi, Bool.true_and]
  rcases Bool.and_eq_false_iff.mp bits with h0 | h0 <;> simp only [h0, Bool.false_and, Bool.not_false, Bool.and_true]

/-- The operands read out of the words of an encoding are the command's (R122, R124, R126, R127). -/
theorem decodeOperands_encode {i : Instr} (h : i.wellFormed = true) :
    decodeOperands (Laws.rowOf i) (encode i).1 (encode i).2 = i := by
  cases i
  case iofenceC av wsi pr pw data addr =>
    have aligned := and_not_three_of_aligned h
    simp only [decodeOperands, Laws.rowOf, encode, aligned]
    simp [bit_or, field_or, placeBit, bit_place_ofBool, bit_place_other, field_place_same, field_place_other]
  all_goals
    simp [decodeOperands, Laws.rowOf, encode, encodeIotinval, encodeIodir, encodeAts, bit_or, field_or, placeBit,
      bit_place_ofBool, bit_place_other, field_place_same, field_place_other]

theorem decodeWords_encode {i : Instr} (h : i.wellFormed = true) :
    decodeWords (encode i).1 (encode i).2 = .ok i := by
  have code : field (encode i).1 0 10 = (Laws.rowOf i).code := encodedOpcode i
  rw [decodeWords, code, opcodeOf_code]
  exact congrArg Except.ok (decodeOperands_encode h)

@[simp] theorem encodeBytes_length (i : Instr) : (encodeBytes i).length = 16 := by simp [encodeBytes]

/-- The bytes of a well-formed command decode to it (R118, R131). -/
theorem decode_encodeBytes {i : Instr} (h : i.wellFormed = true) : decode (encodeBytes i) = .ok i := by
  have request : wordOf (encodeBytes i) = (encode i).1 := wordOf_leBytes _ _
  have address : wordOf ((encodeBytes i).drop 8) = (encode i).2 := by
    rw [encodeBytes, List.drop_left' (leBytes_length 8 _)]
    simpa using wordOf_leBytes (encode i).2 []
  rw [decode, if_pos (encodeBytes_length i), request, address, decodeWords_encode h]

/-! ### The placed command -/

theorem leNat_lt (bs : List Byte) : leNat bs < 256 ^ bs.length := by
  induction bs with
  | nil => simp [leNat]
  | cons b bs ih =>
    have := b.isLt
    rw [leNat, List.length_cons, Nat.pow_succ]
    omega

/-- The bytes of the integer of a list of bytes are that list (R71). -/
theorem leBytes_leNat (bs : List Byte) : leBytes bs.length (leNat bs) = bs := by
  induction bs with
  | nil => rfl
  | cons b bs ih =>
    have hb := b.isLt
    have low : BitVec.ofNat 8 (b.toNat + 256 * leNat bs) = b := by
      apply BitVec.eq_of_toNat_eq
      rw [BitVec.toNat_ofNat]
      omega
    have high : (b.toNat + 256 * leNat bs) / 256 = leNat bs := by omega
    rw [List.length_cons, leBytes, leNat, low, high, ih]

/-- `withFetchWord` of a command's 128 bits places its bytes (log 13). -/
theorem withFetchWord_encodeBytes (s : State) (i : Instr) :
    s.withFetchWord 128 (leNat (encodeBytes i)) = s.placeCommand (encodeBytes i) := by
  have small : leNat (encodeBytes i) < 2 ^ 128 := by
    have := leNat_lt (encodeBytes i)
    rwa [encodeBytes_length] at this
  have bytes := leBytes_leNat (encodeBytes i)
  rw [encodeBytes_length] at bytes
  rw [State.withFetchWord, Nat.mod_eq_of_lt small, bytes]

@[simp] theorem touches_nil (a : Word) (n : Nat) : touches [] a n = false := by
  induction n generalizing a with
  | zero => rfl
  | succ n ih => simp [touches, inRanges, ih]

/-- After reset the placed bytes are what the drain step fetches (R118, R281). -/
theorem fetchCommand_placeCommand_reset (cfg : Config) {bytes : List Byte} (h : bytes.length = 16) :
    ((State.resetWith cfg).placeCommand bytes).fetchCommand = some bytes := by
  have stored := readBytes_writeBytes [] (commandSlot (drainingQueue Queue.reset) (drainingQueue Queue.reset).head)
    bytes ⟨.nil, by simp⟩ (by omega)
  rw [h] at stored
  exact (State.memRead_eq _ _ _ (touches_nil _ _)).trans (congrArg some stored)

/-- After reset the placed command waits in a drain pass, so the next step runs what its bytes decode to (R281). -/
theorem step_placeCommand_reset (cfg : Config) {bytes : List Byte} {i : Instr} (hlen : bytes.length = 16)
    (hi : decode bytes = .ok i) :
    step ((State.resetWith cfg).placeCommand bytes) = exec i ((State.resetWith cfg).placeCommand bytes) := by
  have fetched := fetchCommand_placeCommand_reset cfg hlen
  have queue : ((State.resetWith cfg).placeCommand bytes).cq = drainingQueue Queue.reset := rfl
  have waiting : (drainingQueue Queue.reset).head ≠ (drainingQueue Queue.reset).tail := by decide
  have drain : step ((State.resetWith cfg).placeCommand bytes) =
      ((State.resetWith cfg).placeCommand bytes).drainStep := rfl
  rw [drain, State.drainStep, queue, if_neg waiting, fetched]
  simp only [hi]

end Sys2Proof.Machine

namespace Sys2Proof.Proofs

open Sys2Proof.Machine Sys2Proof.Claims

/-- Settles O6: the bytes placed are the encoding, which is fetched back and decodes to the command. -/
theorem placedCommandIsRunNext : Obligations.PlacedCommandIsRunNext := by
  unfold Obligations.PlacedCommandIsRunNext
  intro cfg i h
  rw [withFetchWord_encodeBytes]
  exact step_placeCommand_reset cfg (encodeBytes_length i) (decode_encodeBytes h)

end Sys2Proof.Proofs
end

section
/-! Guest memory outside a command's or a record's store, and a write that the host fails (R78, R88). -/

namespace Sys2Proof.Machine

open Claims

/-! ### Memory outside a store -/

/-- A failed store leaves every byte outside the access (R78). -/
theorem readByte_failedStore_outside (s : State) {a : Word} {n : Nat} {x : Word} (h : OutsideBytes a n x) :
    readByte (s.failedStore a n).mem x = readByte s.mem x :=
  readByte_writeBytes_outside _ _ _ _ (by rwa [freeBytes_length])

/-- A store leaves every byte outside the bytes stored (R71). -/
theorem readByte_store_outside (s : State) {a : Word} {bs : List Byte} {x : Word}
    (h : OutsideBytes a bs.length x) : readByte (s.store a bs).mem x = readByte s.mem x :=
  readByte_writeBytes_outside _ _ _ _ h

/-- The address that an IOFENCE.C with AV stores to (R126, R296). -/
theorem storeAddress_iofenceC (wsi pr pw : Bool) (data : BitVec 32) (addr : Word) :
    storeAddress (.iofenceC true wsi pr pw data addr) = some (fenceAddr addr) := rfl

/-- A command leaves every byte of memory but those that it stores to, whether the write succeeds or not (R88, R296). -/
theorem readByte_exec_outside {i : Instr} {s t : State} {x : Word} (h : exec i s = .next t)
    (hx : ∀ a, storeAddress i = some a → OutsideBytes a 4 x) : readByte t.mem x = readByte s.mem x := by
  rcases exec_cases h with rfl | ⟨_, _, _, -, rfl⟩ | ⟨wsi, pr, pw, data, addr, rfl, -, rfl⟩ |
    ⟨wsi, pr, pw, data, addr, rfl, -, rfl⟩
  · rfl
  · rfl
  · have outside : OutsideBytes (fenceAddr addr) 4 x := hx _ (storeAddress_iofenceC wsi pr pw data addr)
    exact readByte_store_outside s (by rwa [leBytes_length])
  · have outside : OutsideBytes (fenceAddr addr) 4 x := hx _ (storeAddress_iofenceC wsi pr pw data addr)
    rw [State.stopDrain_mem]
    exact readByte_failedStore_outside s outside

/-! ### The end of a drain pass -/

theorem endDrain_eq_passEnded (s : State) : s.endDrain = passEnded s := s.endDrain_eq

/-- A failed access of the Command Processor sets CQ_FAULT and ends the pass (R282, R285). -/
theorem stopDrain_faultBit_eq_passEnded (s : State) : s.stopDrain faultBit = passEnded (cqStatusSet s 0x100) :=
  endDrain_eq_passEnded _

/-- IOFENCE.C with AV whose write the host fails (R78, R296). -/
theorem exec_iofenceC_of_not_writable {s : State} {addr : Word} (h : s.writable (fenceAddr addr) 4 = false)
    (wsi pr pw : Bool) (data : BitVec 32) :
    exec (.iofenceC true wsi pr pw data addr) s = .next ((s.failedStore (fenceAddr addr) 4).stopDrain faultBit) := by
  simp [exec, execIofenceC, h]

theorem writable_eq_false_iff (s : State) (a : Word) (n : Nat) :
    s.writable a n = false ↔ touches s.noWrite a n = true := by
  simp [State.writable]

/-! ### A fault record whose write fails -/

theorem recordAllowed_iff (csr : Reg32) :
    recordAllowed csr = true ↔ csr.getLsbD 16 = true ∧ csr.getLsbD 8 = false ∧ csr.getLsbD 9 = false := by
  simp only [recordAllowed, bit, Bool.and_eq_true, Bool.not_eq_true', and_assoc]

/-- FQ_FAULT after a failed store: beside the status bit, memory and the count of free bytes change (R78, R323). -/
theorem setFqStatus_failedStore (s : State) (a : Word) (n : Nat) :
    (s.failedStore a n).setFqStatus faultBit =
      { fqStatusSet s 0x100 with mem := (s.failedStore a n).mem, draws := (s.failedStore a n).draws } := rfl

/-- A report on an open queue with room, whose write the host fails (R323). -/
theorem report_of_not_writable {s : State} (allowed : recordAllowed s.fq.csr = true)
    (room : s.fq.next s.fq.tail ≠ s.fq.head) (failed : s.writable (recordSlot s.fq s.fq.tail) 32 = false)
    (did : Word) (c : Cause) (ttyp : BitVec 6) (iova phys : Word) :
    s.report did c ttyp iova phys = (s.failedStore (recordSlot s.fq s.fq.tail) 32).setFqStatus faultBit := by
  simp [State.report, allowed, room, failed]

end Sys2Proof.Machine

namespace Sys2Proof.Proofs

open Sys2Proof.Machine Sys2Proof.Claims

/-- Settles O19: the failed store changes memory and the count of draws alone, and the stop of the pass follows it. -/
theorem fenceWriteFailureStopsThePass : Obligations.FenceWriteFailureStopsThePass := by
  unfold Obligations.FenceWriteFailureStopsThePass
  intro s wsi pr pw data addr htouch
  have failed : s.writable (fenceAddr addr) 4 = false := (writable_eq_false_iff s _ 4).mpr htouch
  refine ⟨_, exec_iofenceC_of_not_writable failed wsi pr pw data, ?_, fun x hx => ?_⟩
  · rw [stopDrain_faultBit_eq_passEnded]
    rfl
  · rw [State.stopDrain_mem]
    exact readByte_failedStore_outside s hx

/-- Settles O21, by the four outcomes of a command. -/
theorem commandMemoryFrame : Obligations.CommandMemoryFrame := by
  unfold Obligations.CommandMemoryFrame
  intro i s t x h hx
  exact readByte_exec_outside h hx

/-- Settles O37: of the four outcomes of a report, the failed store with FQ_FAULT. -/
theorem failedRecordWriteSetsFqFault : Obligations.FailedRecordWriteSetsFqFault := by
  unfold Obligations.FailedRecordWriteSetsFqFault
  intro s did c ttyp iova phys hactive hfault hfull hroom htouch
  have allowed : recordAllowed s.fq.csr = true := (recordAllowed_iff _).mpr ⟨hactive, hfault, hfull⟩
  have failed : s.writable (recordSlot s.fq s.fq.tail) 32 = false := (writable_eq_false_iff s _ 32).mpr htouch
  rw [report_of_not_writable allowed hroom failed, setFqStatus_failedStore]
  dsimp only
  exact ⟨rfl, fun x hx => readByte_failedStore_outside s hx⟩

end Sys2Proof.Proofs
end

section
/-! What an MMIO read returns, and the access sizes that the block takes (R72, R150, R157). -/

namespace Sys2Proof.Machine

/-! ### The bytes of a register -/

/-- Byte `k` of a word, as a digit of its value. -/
theorem byteOf_eq_ofNat (v : Word) (k : Nat) : byteOf v k = BitVec.ofNat 8 (v.toNat / 256 ^ k) := by
  rw [byteOf, BitVec.extractLsb', Nat.shiftRight_eq_div_pow, Nat.pow_mul]

/-- A present register stands below the PBA (R25). -/
theorem Reg.Present.end_le {cfg : Config} {r : Reg} (h : r.Present cfg) : r.offset + r.width ≤ 0x400 := by
  have hn := cfg.numVectors.isLt
  cases r
  case msiAddr v | msiData v | msiCtrl v =>
    simp only [Reg.Present] at h
    simp only [Reg.offset, Reg.width]
    omega
  case base q | head q | tail q | csr q => cases q <;> decide
  all_goals decide

/-- The window shows each byte of a register at its offset (R150). -/
theorem windowByte_of_reg {s : State} {r : Reg} (hp : r.Present s.cfg) {k : Nat} (hk : k < r.width) :
    s.windowByte (r.offset + k) = byteOf (s.readReg r) k := by
  have below := hp.end_le
  have located : locate s.cfg (r.offset + k) = some r := locate_of_covers hp ((covers_iff _ _).mpr (by omega))
  rw [State.windowByte, if_neg (by omega), if_neg (by omega), located]
  simp only [Nat.add_sub_cancel_left]

/-- Window bytes that are the digits of a value are its little-endian bytes (R71). -/
theorem windowBytes_eq_leBytes {s : State} {o n v : Nat}
    (h : ∀ k < n, s.windowByte (o + k) = BitVec.ofNat 8 (v / 256 ^ k)) : s.windowBytes o n = leBytes n v := by
  induction n generalizing o v with
  | zero => rfl
  | succ n ih =>
    have first : s.windowByte o = BitVec.ofNat 8 v := by simpa using h 0 (by omega)
    have rest : s.windowBytes (o + 1) n = leBytes n (v / 256) := by
      refine ih fun k hk => ?_
      rw [Nat.add_assoc, Nat.add_comm 1 k, h (k + 1) (by omega), Nat.div_div_eq_div_mul, Nat.pow_succ']
    rw [State.windowBytes, leBytes, first, rest]

/-- A register's value fits its width. -/
theorem readReg_lt (s : State) (r : Reg) : (s.readReg r).toNat < 256 ^ r.width := by
  have bound : (s.readReg r).toNat < 2 ^ (8 * r.width) :=
    Nat.lt_pow_two_of_testBit _ fun i hi => readReg_getLsbD_of_ge s r hi
  rwa [Nat.pow_mul] at bound

/-- An MMIO read of a register's bytes returns its value (R72, R150). -/
theorem mmioRead_reg {s : State} {r : Reg} (hp : r.Present s.cfg) : s.mmioRead r.offset r.width = s.readReg r := by
  have bytes : s.windowBytes r.offset r.width = leBytes r.width (s.readReg r).toNat :=
    windowBytes_eq_leBytes fun k hk => by rw [windowByte_of_reg hp hk, byteOf_eq_ofNat]
  rw [State.mmioRead, bytes, leNat_leBytes, Nat.mod_eq_of_lt (readReg_lt s r), BitVec.ofNat_toNat, BitVec.setWidth_eq]

/-! ### An MMIO access as a step -/

theorem readReg_agenda (s : State) (es : List Event) (r : Reg) :
    ({ s with agenda := es } : State).readReg r = s.readReg r := by
  cases r
  case base q | head q | tail q | csr q => cases q <;> rfl
  all_goals rfl

theorem windowByte_agenda (s : State) (es : List Event) (o : Nat) :
    ({ s with agenda := es } : State).windowByte o = s.windowByte o := by
  simp only [State.windowByte, readReg_agenda]

/-- What an MMIO read returns does not depend on the moves still to come. -/
theorem mmioRead_agenda (s : State) (es : List Event) (a n : Nat) :
    ({ s with agenda := es } : State).mmioRead a n = s.mmioRead a n := by
  have bytes : ({ s with agenda := es } : State).windowBytes a n = s.windowBytes a n := by
    induction n generalizing a with
    | zero => rfl
    | succ n ih => rw [State.windowBytes, State.windowBytes, windowByte_agenda, ih]
  rw [State.mmioRead, State.mmioRead, bytes]

theorem mmioSizeOk_iff (n : Nat) : mmioSizeOk n = true ↔ n = 1 ∨ n = 2 ∨ n = 4 ∨ n = 8 := by
  simp [mmioSizeOk, or_assoc]

/-- With a move on the agenda, a step is that move. -/
theorem step_agenda (s : State) (e : Event) (rest : List Event) :
    step { s with agenda := e :: rest } = ({ s with agenda := rest } : State).perform e := rfl

end Sys2Proof.Machine

namespace Sys2Proof.Proofs

open Sys2Proof.Machine Sys2Proof.Claims

/-- Settles O28: the window shows a register's bytes, and the bytes of a value give it back. -/
theorem wholeRegisterReadBack : Obligations.WholeRegisterReadBack := by
  unfold Obligations.WholeRegisterReadBack
  intro s r hp
  exact mmioRead_reg hp

/-- Settles O34: the size check is the one branch of an MMIO access. -/
theorem otherMmioSizesAreRefused : Obligations.OtherMmioSizesAreRefused := by
  unfold Obligations.OtherMmioSizesAreRefused
  intro s rest a n v
  simp only [step_agenda, State.perform, performMmioRead, performMmioWrite, mmioRead_agenda]
  refine ⟨fun taken => ?_, fun h1 h2 h4 h8 => ?_⟩
  · have ok : mmioSizeOk n = true := (mmioSizeOk_iff n).mpr taken
    rw [if_pos ok, if_pos ok]
    exact ⟨rfl, rfl⟩
  · have bad : ¬ mmioSizeOk n = true := by simp [mmioSizeOk_iff, h1, h2, h4, h8]
    rw [if_neg bad, if_neg bad]
    exact ⟨rfl, rfl⟩

end Sys2Proof.Proofs
end

section
/-! Invalidations of the device-context cache, and the fill that overwrites one (R291, R297, R343). -/

namespace Sys2Proof.Machine

/-! ### A lookup after an invalidation -/

/-- After `InvalidateAllDC` every lookup misses (R291). -/
@[simp] theorem hit_invalidateAll (c : DasCache) (d : Word) : c.invalidateAll.hit d = none := by
  rw [DasCache.hit, DasCache.find_invalidateAll]
  cases c.find d <;> rfl

/-- After the invalidation of one device its lookup misses, and every other is as before (R297). -/
theorem hit_invalidate (c : DasCache) (did d : Word) :
    (c.invalidate did).hit d = if d = did then none else c.hit d := by
  rw [DasCache.hit, DasCache.hit, DasCache.find_invalidate]
  cases found : c.find d with
  | none => simp
  | some e =>
    obtain ⟨-, rfl⟩ := DasCache.find_mem found
    by_cases same : e.did = did <;> simp [same]

/-- What a DDTP step that changes the mode leaves of the cache (R291). -/
theorem ddtpStep_das_of_mode_ne {s : State} (h : s.ddtpStep.ddtMode ≠ s.ddtMode) :
    s.ddtpStep.das = s.das.invalidateAll := by
  rcases ddtpStep_cases s with ⟨m, -, e⟩ | e
  · rw [e] at h ⊢
    exact if_pos h
  · exact absurd (by rw [e, State.rejectDdtp_ddtMode]) h

/-! ### The fill of a translation in flight -/

/-- Whatever the cache holds, a flight that comes to its fill writes its context there as a valid entry (R342, R343). -/
theorem hit_advance_of_fill {s : State} {f : Flight} {dc : DC} (hf : f ∈ s.flights)
    (distinct : (s.flights.map Flight.tag).Nodup) (hfill : f.phase = .fill dc) :
    (s.advance f.tag).das.hit f.did = some dc := by
  have filled : (s.flightStep f).2 = s.fillCache f.did dc := by simp only [State.flightStep, hfill]
  have das : (s.advanceFlight f).das = (s.fillCache f.did dc).das := by
    rw [advanceFlight_eq, filled]
    split <;> rfl
  rw [State.advance, findFlight_of_mem hf distinct]
  simp only [das, hit_fillCache]

end Sys2Proof.Machine

namespace Sys2Proof.Proofs

open Sys2Proof.Machine Sys2Proof.Claims

/-- Settles O53: neither invalidation touches the flights, and the fill does not look at the cache before it writes. -/
theorem staleFillIsAdmitted : Obligations.StaleFillIsAdmitted := by
  unfold Obligations.StaleFillIsAdmitted
  intro s f dc hf distinct hfill
  refine ⟨fun t pid dv did h => ?_, fun hmode => ⟨fun d => ?_, ?_⟩⟩
  · cases h
    refine ⟨?_, hit_advance_of_fill hf distinct hfill⟩
    cases dv
    · simp
    · simp [hit_invalidate]
  · rw [ddtpStep_das_of_mode_ne hmode, hit_invalidateAll]
  · have flights : s.ddtpStep.flights = s.flights := by simp
    exact hit_advance_of_fill (flights ▸ hf) (flights ▸ distinct) hfill

end Sys2Proof.Proofs
end

section
/-! The decoder undone by the encoder, and which words decode. -/

namespace Sys2Proof.Machine

/-! ### The code table -/

theorem Opcode.mem_all (o : Opcode) : o ∈ Opcode.all := by cases o <;> decide

/-- The nine codes of R121 are those of the model's table. -/
theorem commandCodes_eq : Claims.commandCodes = Opcode.all.map Opcode.code := rfl

theorem opcodeOf_eq_some_iff (op : BitVec 10) (o : Opcode) : opcodeOf op = some o ↔ o.code = op := by
  constructor
  · intro h
    simpa using List.find?_some h
  · rintro rfl
    exact opcodeOf_code o

theorem opcodeOf_eq_none_iff (op : BitVec 10) : opcodeOf op = none ↔ op ∉ Claims.commandCodes := by
  rw [opcodeOf, List.find?_eq_none, commandCodes_eq, List.mem_map]
  simp

/-! ### Which words and bytes decode -/

theorem decodeWords_of_code {o : Opcode} {req : Word} (code : field req 0 10 = o.code) (addr : Word) :
    decodeWords req addr = .ok (decodeOperands o req addr) := by
  rw [decodeWords, (opcodeOf_eq_some_iff _ o).mpr code.symm]

theorem decodeWords_of_not_code {req : Word} (h : field req 0 10 ∉ Claims.commandCodes) (addr : Word) :
    decodeWords req addr = .error (.illegalOpcode (field req 0 10)) := by
  rw [decodeWords, (opcodeOf_eq_none_iff _).mpr h]

/-- What decodes has the code of a row, and the operands that this row reads (R119, R121). -/
theorem decodeWords_ok {req addr : Word} {i : Instr} (h : decodeWords req addr = .ok i) :
    ∃ o : Opcode, field req 0 10 = o.code ∧ i = decodeOperands o req addr := by
  rw [decodeWords] at h
  split at h
  next o ho =>
    cases h
    exact ⟨o, ((opcodeOf_eq_some_iff _ o).mp ho).symm, rfl⟩
  next => cases h

theorem decode_length {bytes : List Byte} {i : Instr} (h : decode bytes = .ok i) : bytes.length = 16 := by
  by_contra hne
  rw [decode, if_neg hne] at h
  cases h

/-- Bytes without a code of R121 are no command, whatever their number (R128, R131). -/
theorem decode_of_not_code {bytes : List Byte} (h : field (wordOf bytes) 0 10 ∉ Claims.commandCodes) :
    ∃ e, decode bytes = .error e := by
  rw [decode]
  split
  · exact ⟨_, decodeWords_of_not_code h _⟩
  · exact ⟨_, rfl⟩

/-! ### A field put back where it was read -/

theorem place_field (v : Word) (lo n : Nat) : place (field v lo n) lo = v &&& place (BitVec.allOnes n) lo := by
  apply BitVec.eq_of_getLsbD_eq
  intro i _
  rw [BitVec.getLsbD_and, getLsbD_place, getLsbD_place, getLsbD_field, BitVec.getLsbD_allOnes]
  by_cases h : lo ≤ i
  · rw [Nat.add_sub_cancel' h, ← Bool.and_assoc, Bool.and_comm]
  · simp [h]

theorem placeBit_bit (v : Word) (i : Nat) : placeBit (bit v i) i = v &&& place (BitVec.allOnes 1) i := by
  have field_one : BitVec.ofBool (bit v i) = field v i 1 := by
    apply BitVec.eq_of_getLsbD_eq
    intro k hk
    obtain rfl : k = 0 := by omega
    simp [bit, field]
  rw [placeBit, field_one, place_field]

/-! ### The encoder on the fields that the decoder reads -/

/-- The words of an IOTINVAL command, from the fields of R122. -/
theorem encodeIotinval_fields {o : Opcode} {req : Word} (code : field req 0 10 = o.code) (addr : Word) :
    encodeIotinval o (bit req 10) (field req 12 20) (bit req 32) (bit req 33) (field req 44 16) (field addr 10 54) =
      (req &&& 0x0FFFF003FFFFF7FF, addr &&& 0xFFFFFFFFFFFFFC00) := by
  rw [encodeIotinval, ← code]
  simp only [placeBit_bit, place_field, ← BitVec.and_or_distrib_left]
  rfl

/-- The words of an IODIR command, from the fields of R124; its address word holds no operand. -/
theorem encodeIodir_fields {o : Opcode} {req : Word} (code : field req 0 10 = o.code) (addr : Word) :
    encodeIodir o (field req 12 20) (bit req 33) (field req 40 24) = (req &&& 0xFFFFFF02FFFFF3FF, addr &&& 0) := by
  have reserved : addr &&& 0 = 0 := BitVec.and_zero
  rw [encodeIodir, ← code, reserved]
  simp only [placeBit_bit, place_field, ← BitVec.and_or_distrib_left]
  rfl

/-- The words of an ATS command, from the fields of R127; its whole address word is the payload. -/
theorem encodeAts_fields {o : Opcode} {req : Word} (code : field req 0 10 = o.code) (addr : Word) :
    encodeAts o (field req 12 20) (bit req 32) (bit req 33) (field req 40 16) (field req 56 8) addr =
      (req &&& 0xFFFFFF03FFFFF3FF, addr &&& 0xFFFFFFFFFFFFFFFF) := by
  have whole : addr &&& 0xFFFFFFFFFFFFFFFF = addr := BitVec.and_allOnes
  rw [encodeAts, ← code, whole]
  simp only [placeBit_bit, place_field, ← BitVec.and_or_distrib_left]
  rfl

/-- The words of an IOFENCE.C, from the fields of R126; the completion address comes without its two low bits. -/
theorem encode_iofenceC_fields {req : Word} (code : field req 0 10 = Opcode.iofenceC.code) (addr : Word) :
    encode (.iofenceC (bit req 10) (bit req 11) (bit req 12) (bit req 13) (field req 32 32) (addr &&& ~~~3)) =
      (req &&& 0xFFFFFFFF00003FFF, addr &&& 0xFFFFFFFFFFFFFFFC) := by
  rw [encode, ← code]
  simp only [placeBit_bit, place_field, ← BitVec.and_or_distrib_left]
  rfl

/-- Encoding the operands read out of two words gives back their opcode and operand bits (R120, R129). -/
theorem encode_decodeOperands {o : Opcode} {req : Word} (code : field req 0 10 = o.code) (addr : Word) :
    encode (decodeOperands o req addr) =
      (req &&& Claims.requestBits (decodeOperands o req addr),
        addr &&& Claims.addressBits (decodeOperands o req addr)) := by
  cases o
  case iotinvalVma => exact encodeIotinval_fields code addr
  case iotinvalGvma => exact encodeIotinval_fields code addr
  case iofenceC => exact encode_iofenceC_fields code addr
  case iodirInvDdt => exact encodeIodir_fields code addr
  case iodirPreDdt => exact encodeIodir_fields code addr
  case iodirInvPdt => exact encodeIodir_fields code addr
  case iodirPrePdt => exact encodeIodir_fields code addr
  case atsInval => exact encodeAts_fields code addr
  case atsPrgr => exact encodeAts_fields code addr

theorem fenceAddressAligned_and_not_three (addr : Word) : fenceAddressAligned (addr &&& ~~~3) = true := by
  have apart : (~~~3 : Word) &&& 3 = 0 := by decide
  have cleared : addr &&& 0 = 0 := BitVec.and_zero
  rw [fenceAddressAligned, BitVec.and_assoc, apart, cleared]
  rfl

/-- The decoder makes no term outside the encodings: it drops the two low bits of a completion address (R74, R126). -/
theorem decodeOperands_wellFormed (o : Opcode) (req addr : Word) : (decodeOperands o req addr).wellFormed = true := by
  cases o
  case iofenceC => exact fenceAddressAligned_and_not_three addr
  all_goals rfl

end Sys2Proof.Machine

namespace Sys2Proof.Proofs

open Sys2Proof.Machine Sys2Proof.Claims

/-- Settles O1: each word's fields are read back where they were placed, and the bytes give the words back. -/
theorem decodeOfEncodeIsIdentity : Obligations.DecodeOfEncodeIsIdentity := by
  unfold Obligations.DecodeOfEncodeIsIdentity
  intro i h
  exact decode_encodeBytes h

/-- Settles O2, by the row of the code table that the words decode by. -/
theorem encodeOfDecodeKeepsOperandBits : Obligations.EncodeOfDecodeKeepsOperandBits := by
  unfold Obligations.EncodeOfDecodeKeepsOperandBits
  intro req addr i h
  obtain ⟨o, code, rfl⟩ := decodeWords_ok h
  exact ⟨decodeOperands_wellFormed o req addr, encode_decodeOperands code addr⟩

/-- Settles O3: a code of the table finds its row, and bytes of another number are rejected before any code is read. -/
theorem decoderAcceptsExactlyTheNineCodes : Obligations.DecoderAcceptsExactlyTheNineCodes := by
  unfold Obligations.DecoderAcceptsExactlyTheNineCodes
  refine ⟨fun req addr => ?_, fun _ _ h => decode_length h⟩
  rw [commandCodes_eq, List.mem_map]
  constructor
  · rintro ⟨i, h⟩
    obtain ⟨o, code, -⟩ := decodeWords_ok h
    exact ⟨o, Opcode.mem_all o, code.symm⟩
  · rintro ⟨o, -, code⟩
    exact ⟨_, decodeWords_of_code code.symm addr⟩

/-- Settles O4: the code selects the row, whose operands are then read out of the words. -/
theorem specCommandWordsDecode : Obligations.SpecCommandWordsDecode := by
  unfold Obligations.SpecCommandWordsDecode
  refine ⟨?_, ?_, ?_, ?_⟩
  · exact decodeWords_of_code (o := .iofenceC) rfl _
  · exact decodeWords_of_code (o := .iodirInvDdt) rfl _
  · exact decodeWords_of_code (o := .iotinvalVma) rfl _
  · exact decodeWords_of_code (o := .atsPrgr) rfl _

end Sys2Proof.Proofs
end

section
/-! A drain step on an illegal command, and IOFENCE.C when the host takes its write (R284, R296). -/

namespace Sys2Proof.Machine

open Claims

/-! ### A drain step on an illegal command -/

/-- While a pass runs, the Command Processor takes its steps (R271). -/
theorem processorStep_of_draining {s : State} (h : s.cqDraining = true) : s.processorStep = s.drainStep := by
  have first : s.selected = some .drain := by simp [State.selected, priorityOrder, State.pending, h]
  rw [State.processorStep, first]
  rfl

/-- Bytes at the head that are no command stop the pass (R284). -/
theorem drainStep_of_decode_error {s : State} {bytes : List Byte} {e : DecodeError} (waiting : s.cq.head ≠ s.cq.tail)
    (fetched : s.fetchCommand = some bytes) (illegal : decode bytes = .error e) :
    s.drainStep = .next (s.stopDrain errorBit) := by
  rw [State.drainStep, if_neg waiting, fetched]
  simp only [illegal]

/-- An illegal command sets CQ_ERROR and ends the pass (R284, R285). -/
theorem stopDrain_errorBit_eq_passEnded (s : State) : s.stopDrain errorBit = passEnded (cqStatusSet s 0x400) :=
  endDrain_eq_passEnded _

/-! ### IOFENCE.C when the host takes its write -/

theorem exec_iofenceC_of_writable {s : State} {addr : Word} (h : s.writable (fenceAddr addr) 4 = true)
    (wsi pr pw : Bool) (data : BitVec 32) :
    exec (.iofenceC true wsi pr pw data addr) s =
      .next (s.store (fenceAddr addr) (leBytes 4 data.toNat)).commandDone := by
  simp [exec, execIofenceC, h]

/-- The four bytes of a 32-bit word, lowest first (R71). -/
theorem leBytes_four (v : BitVec 32) :
    leBytes 4 v.toNat = [v.extractLsb' 0 8, v.extractLsb' 8 8, v.extractLsb' 16 8, v.extractLsb' 24 8] := by
  simp only [leBytes, BitVec.extractLsb', Nat.shiftRight_eq_div_pow, Nat.div_div_eq_div_mul, Nat.pow_zero, Nat.div_one]

end Sys2Proof.Machine

namespace Sys2Proof.Proofs

open Sys2Proof.Machine Sys2Proof.Claims

/-- Settles O7: the drain step fetches the bytes, finds no row for their code, and stops the pass. -/
theorem illegalCommandStopsThePass : Obligations.IllegalCommandStopsThePass := by
  unfold Obligations.IllegalCommandStopsThePass
  intro s bytes draining waiting fetched illegal
  obtain ⟨e, he⟩ := decode_of_not_code illegal
  rw [processorStep_of_draining draining, drainStep_of_decode_error waiting fetched he, stopDrain_errorBit_eq_passEnded]

/-- Settles O18: the store is read back, and the head's advance leaves memory as the store made it. -/
theorem fenceWritesItsCompletionData : Obligations.FenceWritesItsCompletionData := by
  unfold Obligations.FenceWritesItsCompletionData
  intro s wsi pr pw data addr hwf htouch
  have taken : s.writable (fenceAddr addr) 4 = true := congrArg not htouch
  have stored := readBytes_writeBytes s.mem (fenceAddr addr) (leBytes 4 data.toNat) hwf (by simp)
  rw [leBytes_length, leBytes_four] at stored
  refine ⟨_, exec_iofenceC_of_writable taken wsi pr pw data, rfl, ?_, fun x hx => ?_⟩
  · rw [State.commandDone_mem, State.store_mem, leBytes_four]
    exact stored
  · rw [State.commandDone_mem]
    exact readByte_store_outside s (by rwa [leBytes_length])

end Sys2Proof.Proofs
end

section
/-! The transition table of the directory pointer (R290, R292). -/

namespace Sys2Proof.Machine

/-! ### The bits of a mask that an update leaves alone -/

theorem and_congr_of_bits {w : Nat} {v v' m : BitVec w}
    (h : ∀ i, m.getLsbD i = true → v'.getLsbD i = v.getLsbD i) : v' &&& m = v &&& m := by
  apply BitVec.eq_of_getLsbD_eq
  intro i _
  rw [BitVec.getLsbD_and, BitVec.getLsbD_and]
  cases hm : m.getLsbD i
  · rw [Bool.and_false, Bool.and_false]
  · rw [h i hm]

theorem withBit_and {w : Nat} (v : BitVec w) {m : BitVec w} {k : Nat} (b : Bool) (hk : m.getLsbD k = false) :
    withBit v k b &&& m = v &&& m := by
  refine and_congr_of_bits fun i hi => ?_
  have other : k ≠ i := fun e => by simp [e, hi] at hk
  rw [getLsbD_withBit, if_neg other]

theorem withField_and {w len : Nat} (v : BitVec w) {m : BitVec w} {lo : Nat} (x : BitVec len) (hw : lo + len ≤ w)
    (hm : field m lo len = 0) : withField v lo len x &&& m = v &&& m := by
  refine and_congr_of_bits fun i hi => ?_
  have outside : ¬ (lo ≤ i ∧ i < lo + len) := by
    rintro ⟨hlo, hlt⟩
    have hzero : (field m lo len).getLsbD (i - lo) = false := by rw [hm]; exact BitVec.getLsbD_zero
    have hin : i - lo < len := by omega
    rw [getLsbD_field, Nat.add_sub_cancel' hlo, hi, decide_eq_true hin] at hzero
    cases hzero
  rw [getLsbD_withField _ _ _ _ hw, if_neg outside]

/-! ### Which requests are accepted -/

theorem isDirectory_eq_false_iff (m : DdtMode) : m.isDirectory = false ↔ m = .off ∨ m = .bare := by
  cases m <;> simp [DdtMode.isDirectory]

/-- The two codes that select no directory are those of OFF and BARE (R104). -/
theorem isDirectory_eq_false_iff_code (m : DdtMode) : m.isDirectory = false ↔ (ddtModeCode m).toNat ≤ 1 := by
  cases m <;> decide

theorem ddtModeCode_le (m : DdtMode) : (ddtModeCode m).toNat ≤ 4 := by cases m <;> decide

/-- The codes of R104 are those up to 4; the others are reserved (R105). -/
theorem exists_ddtModeCode {code : BitVec 4} (h : code.toNat ≤ 4) : ∃ m, code = ddtModeCode m := by
  have table : ∀ c : BitVec 4, c.toNat ≤ 4 → c = 0 ∨ c = 1 ∨ c = 2 ∨ c = 3 ∨ c = 4 := by decide
  rcases table code h with e | e | e | e | e
  · exact ⟨.off, e⟩
  · exact ⟨.bare, e⟩
  · exact ⟨.lvl1, e⟩
  · exact ⟨.lvl2, e⟩
  · exact ⟨.lvl3, e⟩

/-- Only its own code names a mode (R104). -/
theorem ddtModeOfCode_eq_some_iff (code : BitVec 4) (m : DdtMode) :
    ddtModeOfCode code = some m ↔ code = ddtModeCode m := by
  constructor
  · intro h
    unfold ddtModeOfCode at h
    split_ifs at h with h0 h1 h2 h3 h4 <;> cases h <;> assumption
  · rintro rfl
    exact ddtModeOfCode_ddtModeCode m

/-- A mode may be left for any other unless both are directories (R290). -/
theorem ddtTransitionOk_some_iff (old m : DdtMode) :
    ddtTransitionOk old (some m) = true ↔ (ddtModeCode m).toNat ≤ 1 ∨ old = .off ∨ old = .bare := by
  rw [← isDirectory_eq_false_iff, ← isDirectory_eq_false_iff_code, ddtTransitionOk, Bool.or_eq_true,
    Bool.not_eq_true', Bool.not_eq_true', or_comm]

/-! ### The step on an accepted and on a rejected request -/

/-- A request of a mode that the table allows is adopted (R290). -/
theorem ddtpStep_of_allowed {s : State} (h : (ddtpMode s.ddtp).toNat ≤ 1 ∨
    (ddtpMode s.ddtp).toNat ≤ 4 ∧ (s.ddtMode = .off ∨ s.ddtMode = .bare)) :
    ∃ m, ddtpMode s.ddtp = ddtModeCode m ∧ s.ddtpStep = s.adoptDdtp m := by
  obtain ⟨m, hm⟩ := exists_ddtModeCode (code := ddtpMode s.ddtp) (by omega)
  have ok : ddtTransitionOk s.ddtMode (some m) = true := by
    rw [ddtTransitionOk_some_iff, ← hm]
    exact h.imp_right And.right
  exact ⟨m, hm, by rw [State.ddtpStep, hm, ddtModeOfCode_ddtModeCode]; simp only [ok, if_true]⟩

/-- Every other request is rejected: one of a reserved code, and one from directory to directory (R290, R292). -/
theorem ddtpStep_of_not_allowed {s : State} (h : ¬ ((ddtpMode s.ddtp).toNat ≤ 1 ∨
    (ddtpMode s.ddtp).toNat ≤ 4 ∧ (s.ddtMode = .off ∨ s.ddtMode = .bare))) : s.ddtpStep = s.rejectDdtp := by
  unfold State.ddtpStep
  split
  next m hm =>
    rw [ddtModeOfCode_eq_some_iff] at hm
    have no : ¬ ddtTransitionOk s.ddtMode (some m) = true := fun ok => by
      rw [ddtTransitionOk_some_iff, ← hm] at ok
      exact h (ok.imp_right fun hold => ⟨hm ▸ ddtModeCode_le m, hold⟩)
    rw [if_neg no]
  next => rfl

/-- DDTP after a rejected request shows the active mode and page number, keeps its reserved bits and
is not BUSY (R290). -/
theorem ddtp_rejectDdtp (s : State) :
    ddtpMode s.rejectDdtp.ddtp = ddtModeCode s.ddtMode ∧
    ddtpPpn s.rejectDdtp.ddtp = (s.ddtBase >>> 12).setWidth 44 ∧
    s.rejectDdtp.ddtp &&& 0xFFC00000000003E0 = s.ddtp &&& 0xFFC00000000003E0 ∧
    bit s.rejectDdtp.ddtp ddtpBusyBit = false := by
  refine ⟨(ddtp_clearBusy _).1.trans ?_, (ddtp_clearBusy _).2.trans ?_, ?_, bit_withBit_same _ _ _ (by decide)⟩
  · rw [ddtpMode, field_withField_other _ _ _ _ _ (by decide) (by decide), field_withField_same _ _ _ (by decide)]
  · rw [ddtpPpn, field_withField_same _ _ _ (by decide)]
  · rw [State.rejectDdtp, withBit_and _ _ (by decide), withField_and _ _ (by decide) (by decide),
      withField_and _ _ (by decide) (by decide)]

end Sys2Proof.Machine

namespace Sys2Proof.Proofs

open Sys2Proof.Machine Sys2Proof.Claims

/-- Settles O26, by the two outcomes of a DDTP step. -/
theorem ddtpTransitionTable : Obligations.DdtpTransitionTable := by
  unfold Obligations.DdtpTransitionTable
  intro s
  refine ⟨s.ddtpStep_eq, ?_⟩
  dsimp only
  split
  next allowed =>
    obtain ⟨m, hm, e⟩ := ddtpStep_of_allowed allowed
    rw [e, State.adoptDdtp_ddtMode, ← hm]
    exact ⟨rfl, rfl, rfl⟩
  next notAllowed =>
    rw [ddtpStep_of_not_allowed notAllowed]
    exact ⟨rfl, rfl, rfl, ddtp_rejectDdtp s⟩

end Sys2Proof.Proofs
end

section
/-! What a directory walk that succeeds returns (R103, R182, R187). -/

namespace Sys2Proof.Machine

theorem memRead_length {s : State} {a : Word} {n : Nat} {bs : List Byte} (h : s.memRead a n = some bs) :
    bs.length = n := by
  rw [State.memRead] at h
  split at h
  · cases h
  · cases h
    exact readBytes_length _ _ _

/-- Past the bytes read a word of the Device Context is 0 (R187). -/
theorem wordOf_drop_eq_zero {bs : List Byte} {k : Nat} (h : bs.length ≤ k) : wordOf (bs.drop k) = 0 := by
  rw [List.drop_eq_nil_of_le h]
  rfl

/-- A Device Context that passes the check is the decoded bytes, with V set (R187). -/
theorem checkDeviceContext_ok {bytes : Option (List Byte)} {dc : DC} (h : checkDeviceContext bytes = .ok dc) :
    ∃ bs, bytes = some bs ∧ dc = DC.ofBytes bs ∧ dc.isValid = true := by
  unfold checkDeviceContext at h
  split at h
  next => cases h
  next bs =>
    split at h
    next valid =>
      cases h
      exact ⟨bs, rfl, rfl, valid⟩
    next => cases h

/-- The context that passes the check of a load of one stride is one that the walker returns (R112, R187). -/
theorem fetched_of_checkDeviceContext {s : State} {a : Word} {dc : DC}
    (h : checkDeviceContext (s.memRead a (dcStride s.cfg)) = .ok dc) : dc.Fetched s.cfg := by
  obtain ⟨bs, hread, rfl, valid⟩ := checkDeviceContext_ok h
  refine ⟨valid, fun hmsi => ?_⟩
  have short : bs.length = 32 := by simpa [dcStride, hmsi] using memRead_length hread
  refine ⟨?_, ?_, ?_, ?_⟩ <;> exact wordOf_drop_eq_zero (by omega)

/-- A walk of any depth ends with the load of the Device Context (R183). -/
theorem fetched_of_walkDirectory {s : State} {did base : Word} {level : Nat} {dc : DC}
    (h : s.walkDirectory did level base = .ok dc) : dc.Fetched s.cfg := by
  induction level generalizing base with
  | zero => exact fetched_of_checkDeviceContext h
  | succ level ih =>
    rw [State.walkDirectory] at h
    split at h
    next => cases h
    next => exact ih h

/-- A fetch that succeeds is in a directory mode, for a device id in its range (R181, R182). -/
theorem fetchDC_ok {s : State} {mode : DdtMode} {root did : Word} {dc : DC} (h : s.fetchDC mode root did = .ok dc) :
    ∃ d, directoryDepth mode = some d ∧ didInRange s.cfg d did = true ∧ s.walkDirectory did d root = .ok dc := by
  unfold State.fetchDC at h
  split at h
  next => cases h
  next d hd =>
    split at h
    next inRange => exact ⟨d, hd, inRange, h⟩
    next => cases h

theorem ushiftRight_eq_zero_iff (v : Word) (k : Nat) : v >>> k = 0 ↔ v.toNat < 2 ^ k := by
  rw [← BitVec.toNat_inj, BitVec.toNat_ushiftRight, Nat.shiftRight_eq_div_pow]
  exact Nat.div_eq_zero_iff_lt (by positivity)

/-- The range of a device id, as numbers (R103). -/
theorem didInRange_iff (cfg : Config) (depth : Nat) (did : Word) :
    didInRange cfg depth did = true ↔ did.toNat < 2 ^ (leafBits cfg + 9 * depth) ∧ did.toNat < 2 ^ cfg.didWidth := by
  rw [didInRange, Bool.and_eq_true, beq_iff_eq, beq_iff_eq, ushiftRight_eq_zero_iff, ushiftRight_eq_zero_iff]

end Sys2Proof.Machine

namespace Sys2Proof.Proofs

open Sys2Proof.Machine Sys2Proof.Claims

/-- Settles O42: the range is checked before the walk, and the walk ends with the check of the context. -/
theorem fetchedContextIsValidAndInRange : Obligations.FetchedContextIsValidAndInRange := by
  unfold Obligations.FetchedContextIsValidAndInRange
  intro s mode root did dc h
  obtain ⟨d, depth, inRange, walked⟩ := fetchDC_ok h
  exact ⟨fetched_of_walkDirectory walked, d, depth, (didInRange_iff s.cfg d did).mp inRange⟩

end Sys2Proof.Proofs
end

section
/-! An MMIO write of a whole register, the side effects of any MMIO write, and all that one may change
(R152, R153, R155, R160). -/

namespace Sys2Proof.Machine

open Claims

/-! ### The side effects of a write, as masks -/

/-- Setting BUSY is the union with the register's BUSY mask (R155). -/
theorem withBit_busyBitOf {r : Reg} {i : Nat} (h : busyBitOf r = some i) (v : Word) :
    withBit v i true = v ||| busyMask r := by
  apply BitVec.eq_of_getLsbD_eq
  intro k hk
  rw [BitVec.getLsbD_or, getLsbD_busyMask, h, getLsbD_withBit]
  by_cases e : i = k
  · subst e
    simp [hk]
  · simp [e]

theorem busyMask_eq_zero {r : Reg} (h : busyBitOf r = none) : busyMask r = 0 := by
  apply BitVec.eq_of_getLsbD_eq
  intro k _
  simp [getLsbD_busyMask, h]

/-- The side effects of a write set BUSY in each register that the access covers (R155). -/
theorem readReg_writeSideEffects_eq_or (s : State) (a n : Nat) (r : Reg) :
    (s.writeSideEffects a n).readReg r = s.readReg r ||| (if r.overlaps a n = true then busyMask r else 0) := by
  have zero (v : Word) : v ||| 0 = v := BitVec.or_zero
  rw [readReg_writeSideEffects]
  split
  next i hi =>
    split
    · exact withBit_busyBitOf hi _
    · exact (zero _).symm
  next hnone => rw [busyMask_eq_zero hnone, ite_self, zero]

/-! ### The masked writes of an access that covers all of a register, or none of it -/

/-- The bits of the bytes of a value (R71). -/
theorem getLsbD_leBytes_getD (n v k j : Nat) :
    ((leBytes n v).getD k 0).getLsbD j = (decide (k < n ∧ j < 8) && v.testBit (8 * k + j)) := by
  induction n generalizing v k with
  | zero => simp [leBytes]
  | succ n ih =>
    cases k with
    | zero => simp [leBytes, BitVec.getLsbD_ofNat]
    | succ k =>
      have shift : v / 256 = v / 2 ^ 8 := rfl
      have place : 8 * (k + 1) + j = 8 * k + j + 8 := by omega
      rw [leBytes, List.getD_cons_succ, ih, shift, Nat.testBit_div_two_pow, place]
      simp

/-- The byte writes over a whole register are one masked write of the word, cut to the register's width (R152). -/
theorem readReg_writeWindow_whole {s : State} {r : Reg} (v : Word) (hp : r.Present s.cfg) (hh : r.Held s) :
    (s.writeWindow r.offset (leBytes r.width v.toNat)).readReg r =
      (((s.readReg r &&& r.ro) ||| (v &&& ~~~r.ro)) &&& ~~~(v &&& r.wc)) &&& r.fit := by
  apply BitVec.eq_of_getLsbD_eq
  intro i hi
  rw [readReg_writeWindow s _ _ r i hp hh, leBytes_length, BitVec.getLsbD_and, getLsbD_fit]
  by_cases inside : i < 8 * r.width
  · have written : ((leBytes r.width v.toNat).getD (r.offset + i / 8 - r.offset) 0).getLsbD (i % 8) = v.getLsbD i := by
      have byte : r.offset + i / 8 - r.offset = i / 8 := by omega
      have bounds : i / 8 < r.width ∧ i % 8 < 8 := by omega
      rw [byte, getLsbD_leBytes_getD, decide_eq_true bounds, Bool.true_and, Nat.div_add_mod, BitVec.testBit_toNat]
    rw [if_pos (by omega), written]
    simp [maskedBit, inside, hi]
  · rw [if_neg (by omega), readReg_getLsbD_of_ge s r (Nat.le_of_not_lt inside), decide_eq_false inside, Bool.and_false]

/-- Byte writes that cover no byte of a register leave it alone. -/
theorem readReg_writeWindow_of_not_overlaps {s : State} {r : Reg} {a : Nat} {bs : List Byte} (hp : r.Present s.cfg)
    (hh : r.Held s) (h : ¬ r.overlaps a bs.length = true) : (s.writeWindow a bs).readReg r = s.readReg r := by
  apply BitVec.eq_of_getLsbD_eq
  intro i _
  rw [readReg_writeWindow s a bs r i hp hh, if_neg]
  rintro ⟨hlo, hhi, hw⟩
  exact h ((overlaps_iff _ _ _).mpr ⟨_, hlo, hhi, by omega, by omega⟩)

/-! ### An MMIO write of a whole register -/

/-- An access to all of a register covers that register and no other: their bytes are apart (R25). -/
theorem overlaps_whole_iff {cfg : Config} {r r' : Reg} (hp : r.Present cfg) (hp' : r'.Present cfg) :
    r'.overlaps r.offset r.width = true ↔ r' = r := by
  rw [overlaps_iff]
  constructor
  · rintro ⟨o, hlo, hhi, hlo', hhi'⟩
    have located := locate_of_covers hp ((covers_iff r o).mpr ⟨hlo, hhi⟩)
    rw [locate_of_covers hp' ((covers_iff r' o).mpr ⟨hlo', hhi'⟩)] at located
    exact Option.some.inj located
  · rintro rfl
    have bytes : 0 < r'.width := by cases r' <;> simp [Reg.width]
    exact ⟨r'.offset, by omega⟩

/-- The register written gets the masked value and, where it has one, its BUSY bit (R152, R155). -/
theorem readReg_mmioWrite_whole_same {s : State} {r : Reg} (v : Word) (hp : r.Present s.cfg) (hh : r.Held s) :
    (s.mmioWrite r.offset r.width v).readReg r =
      ((((s.readReg r &&& r.ro) ||| (v &&& ~~~r.ro)) &&& ~~~(v &&& r.wc)) &&& r.fit) ||| busyMask r := by
  rw [State.mmioWrite, readReg_writeSideEffects_eq_or, if_pos ((overlaps_whole_iff hp hp).mpr rfl),
    readReg_writeWindow_whole v hp hh]

/-- Every other register keeps its value. -/
theorem readReg_mmioWrite_whole_other {s : State} {r r' : Reg} (v : Word) (hp : r.Present s.cfg)
    (hp' : r'.Present s.cfg) (hh' : r'.Held s) (hne : r' ≠ r) :
    (s.mmioWrite r.offset r.width v).readReg r' = s.readReg r' := by
  have apart : ¬ r'.overlaps r.offset r.width = true := fun h => hne ((overlaps_whole_iff hp hp').mp h)
  rw [State.mmioWrite, readReg_writeSideEffects_eq_or, if_neg apart,
    readReg_writeWindow_of_not_overlaps hp' hh' (by rwa [leBytes_length])]
  exact BitVec.or_zero

/-! ### BUSY and the doorbell after an MMIO write -/

/-- The byte writes keep a bit that is read-only and not write-clear (R152, R153). -/
theorem getLsbD_writeWindow_of_ro {s : State} {r : Reg} {i : Nat} (a : Nat) (bs : List Byte) (hp : r.Present s.cfg)
    (hh : r.Held s) (ro : r.ro.getLsbD i = true) (wc : r.wc.getLsbD i = false) :
    ((s.writeWindow a bs).readReg r).getLsbD i = (s.readReg r).getLsbD i := by
  rw [readReg_writeWindow s a bs r i hp hh]
  split
  · simp [maskedBit, ro, wc]
  · rfl

/-- To the byte writes BUSY is read-only and not write-clear (R28, R33 to R35). -/
theorem busyBitOf_masks {r : Reg} {i : Nat} (h : busyBitOf r = some i) :
    r.ro.getLsbD i = true ∧ r.wc.getLsbD i = false := by
  cases r
  case ddtp =>
    cases h
    decide
  case csr q =>
    cases h
    cases q <;> decide
  all_goals cases h

/-- A register with a BUSY bit stands outside the MSI table. -/
theorem present_and_held_of_busyBitOf {r : Reg} {i : Nat} (h : busyBitOf r = some i) (s : State) :
    r.Present s.cfg ∧ r.Held s := by
  cases r
  case ddtp | csr q => exact ⟨trivial, trivial⟩
  all_goals cases h

/-- An MMIO write sets BUSY exactly when it covers a byte of the register, and never clears it (R44, R155). -/
theorem busy_mmioWrite_iff {r : Reg} {i : Nat} (h : busyBitOf r = some i) (s : State) (a n : Nat) (v : Word) :
    ((s.mmioWrite a n v).readReg r).getLsbD i = true ↔ (s.readReg r).getLsbD i = true ∨ Touches r a n := by
  obtain ⟨ro, wc⟩ := busyBitOf_masks h
  obtain ⟨hp, hh⟩ := present_and_held_of_busyBitOf h s
  have mask : (busyMask r).getLsbD i = true := by rw [getLsbD_busyMask, h, decide_eq_true rfl]
  rw [State.mmioWrite, readReg_writeSideEffects_eq_or, BitVec.getLsbD_or,
    getLsbD_writeWindow_of_ro a _ hp hh ro wc, Bool.or_eq_true, Touches, ← overlaps_iff r a n]
  refine or_congr_right ?_
  split
  next covered => exact iff_of_true mask covered
  next missed => exact iff_of_false (by simp) missed

@[simp] theorem writeReg_cqDoorbell (s : State) (r : Reg) (v : Word) : (s.writeReg r v).cqDoorbell = s.cqDoorbell := by
  cases r <;> simp [State.writeReg]

@[simp] theorem markBusy_cqDoorbell (s : State) (r : Reg) (i a n : Nat) :
    (s.markBusy r i a n).cqDoorbell = s.cqDoorbell := by
  unfold State.markBusy
  split
  · exact writeReg_cqDoorbell s r _
  · rfl

@[simp] theorem writeWindowByte_cqDoorbell (s : State) (o : Nat) (b : Byte) :
    (s.writeWindowByte o b).cqDoorbell = s.cqDoorbell := by
  unfold State.writeWindowByte
  split
  · exact writeReg_cqDoorbell s _ _
  · rfl

@[simp] theorem writeWindow_cqDoorbell (s : State) (o : Nat) (bs : List Byte) :
    (s.writeWindow o bs).cqDoorbell = s.cqDoorbell := by
  induction bs generalizing s o with
  | nil => rfl
  | cons b bs ih => rw [State.writeWindow, ih, writeWindowByte_cqDoorbell]

/-- An MMIO write sets the doorbell exactly when it covers a byte of CQT, and never clears it (R45, R155). -/
theorem cqDoorbell_mmioWrite_iff (s : State) (a n : Nat) (v : Word) :
    (s.mmioWrite a n v).cqDoorbell = true ↔ s.cqDoorbell = true ∨ Touches (.tail .cq) a n := by
  rw [Touches, ← overlaps_iff (.tail .cq) a n, State.mmioWrite, State.writeSideEffects]
  split
  next covered => exact iff_of_true rfl (.inr covered)
  next missed => simp [missed]

/-! ### What an MMIO write may change -/

/-- A state that is the same behind the registers, written out from the first: only register fields and the doorbell are
its own. -/
theorem State.SameBehindRegisters.eq_with {s t : State} (h : s.SameBehindRegisters t) :
    t = { s with
      ddtp := t.ddtp
      cq := { t.cq with base := s.cq.base, mask := s.cq.mask, armed := s.cq.armed }
      fq := { t.fq with base := s.fq.base, mask := s.fq.mask, armed := s.fq.armed }
      pq := { t.pq with base := s.pq.base, mask := s.pq.mask, armed := s.pq.armed }
      ipsr := t.ipsr
      icvec := t.icvec
      msi := t.msi
      cqDoorbell := t.cqDoorbell } := by
  have latched (q : QueueId) : t.queue q =
      { t.queue q with base := (s.queue q).base, mask := (s.queue q).mask, armed := (s.queue q).armed } := by
    rw [← h.base q, ← h.mask q, ← h.armed q]
  have cq : t.cq = { t.cq with base := s.cq.base, mask := s.cq.mask, armed := s.cq.armed } := latched .cq
  have fq : t.fq = { t.fq with base := s.fq.base, mask := s.fq.mask, armed := s.fq.armed } := latched .fq
  have pq : t.pq = { t.pq with base := s.pq.base, mask := s.pq.mask, armed := s.pq.armed } := latched .pq
  rw [← cq, ← fq, ← pq, ← h.cfg, ← h.pba, ← h.ddtMode, ← h.ddtBase, ← h.cqDraining, ← h.das, ← h.mem, ← h.noRead,
    ← h.noWrite, ← h.flights, ← h.nextTag, ← h.draws, ← h.agenda, ← h.outbox]

end Sys2Proof.Machine

namespace Sys2Proof.Proofs

open Sys2Proof.Machine Sys2Proof.Claims

/-- Settles O29: the byte writes together are one masked write, and no other register has a byte under the access. -/
theorem wholeRegisterMaskedWrite : Obligations.WholeRegisterMaskedWrite := by
  unfold Obligations.WholeRegisterMaskedWrite
  intro s r v sized hp
  exact ⟨readReg_mmioWrite_whole_same v hp (hp.held sized),
    fun r' hp' hne => readReg_mmioWrite_whole_other v hp hp' (hp'.held sized) hne⟩

/-- Settles O32: BUSY is read-only to the byte writes, so that the side effects alone decide it, as they do the doorbell. -/
theorem writeSideEffects : Obligations.WriteSideEffects := by
  unfold Obligations.WriteSideEffects
  intro s a n v
  refine ⟨cqDoorbell_mmioWrite_iff s a n v, busy_mmioWrite_iff (r := .ddtp) rfl s a n v, fun q => ?_⟩
  have busy := busy_mmioWrite_iff (r := .csr q) rfl s a n v
  simpa [State.readReg, busyBit] using busy

/-- Settles O33: what an MMIO write leaves alone, field by field. -/
theorem mmioWriteFrame : Obligations.MmioWriteFrame := by
  unfold Obligations.MmioWriteFrame
  intro s a n v
  exact (mmioWrite_sameBehindRegisters s a n v).eq_with

end Sys2Proof.Proofs
end

section
/-! Every step answers a next state, but for an MMIO access of a refused size (R157, R351, R375, R376). -/

namespace Sys2Proof.Machine

/-- Whatever the encoder picks, its step answers a next state (R272, R375). -/
theorem serve_next (s : State) (d : Dispatch) : ∃ t, s.serve d = .next t := by
  cases d with
  | drain => exact drainStep_next s
  | startDrain | csr q | ddtp => exact ⟨_, rfl⟩

theorem processorStep_next (s : State) : ∃ t, s.processorStep = .next t := by
  unfold State.processorStep
  split
  · exact serve_next s _
  · exact ⟨s, rfl⟩

theorem defaultStep_next (s : State) : ∃ t, s.defaultStep = .next t := by
  unfold State.defaultStep
  split
  · exact serve_next s _
  · split <;> exact ⟨_, rfl⟩

theorem step_of_agenda_nil {s : State} (h : s.agenda = []) : step s = s.defaultStep := by
  simp only [step, State.atomicStep, h]

theorem step_of_agenda_cons {s : State} {e : Event} {rest : List Event} (h : s.agenda = e :: rest) :
    step s = ({ s with agenda := rest } : State).perform e := by
  simp only [step, State.atomicStep, h]

/-- The event is an MMIO access of `n` bytes. -/
def Event.IsMmio (n : Nat) (e : Event) : Prop := (∃ a, e = .mmioRead a n) ∨ ∃ a v, e = .mmioWrite a n v

/-- The only moves that are refused are MMIO accesses of a size that the bus does not present (R157). -/
theorem perform_next_or_refused (s : State) (e : Event) :
    (∃ t, s.perform e = .next t) ∨
      ∃ n, e.IsMmio n ∧ mmioSizeOk n = false ∧ s.perform e = .refused (.mmioSize n) := by
  cases e with
  | mmioRead a n =>
    by_cases ok : mmioSizeOk n = true
    · exact .inl ⟨_, if_pos ok⟩
    · exact .inr ⟨n, .inl ⟨a, rfl⟩, Bool.eq_false_iff.mpr ok, if_neg ok⟩
  | mmioWrite a n v =>
    by_cases ok : mmioSizeOk n = true
    · exact .inl ⟨_, if_pos ok⟩
    · exact .inr ⟨n, .inr ⟨a, v, rfl⟩, Bool.eq_false_iff.mpr ok, if_neg ok⟩
  | processor => exact .inl (processorStep_next s)
  | translate did iova access | advance tag => exact .inl ⟨_, rfl⟩
  | hostWrite addr bytes | hostNoRead rs | hostNoWrite rs | hostPba i v => exact .inl ⟨_, rfl⟩

theorem mmioSizeOk_eq_false_iff (n : Nat) : mmioSizeOk n = false ↔ n ≠ 1 ∧ n ≠ 2 ∧ n ≠ 4 ∧ n ≠ 8 := by
  rw [← Bool.not_eq_true, mmioSizeOk_iff]
  simp only [not_or]

end Sys2Proof.Machine

namespace Sys2Proof.Proofs

open Sys2Proof.Machine Sys2Proof.Claims

/-- Settles O35: the agenda's move is refused for its size alone, and without one the step always has an answer. -/
theorem onlyBadMmioSizesStop : Obligations.OnlyBadMmioSizesStop := by
  unfold Obligations.OnlyBadMmioSizesStop
  intro s
  cases agenda : s.agenda with
  | nil =>
    rw [step_of_agenda_nil agenda]
    exact .inl (defaultStep_next s)
  | cons e rest =>
    rw [step_of_agenda_cons agenda]
    refine (perform_next_or_refused _ e).imp_right ?_
    rintro ⟨n, mmio, bad, refused⟩
    obtain ⟨h1, h2, h4, h8⟩ := (mmioSizeOk_eq_false_iff n).mp bad
    obtain ⟨a, rfl⟩ | ⟨a, v, rfl⟩ := mmio
    · exact ⟨a, n, rest, .inl rfl, h1, h2, h4, h8, refused⟩
    · exact ⟨a, n, rest, .inr ⟨v, rfl⟩, h1, h2, h4, h8, refused⟩

end Sys2Proof.Proofs
end

section
/-! The faults of the directory walk (R181, R185, R188). -/

namespace Sys2Proof.Machine

/-- A fault that a load of the directory walk raises: the load failed or what it read is not valid, and no physical address
is given (R185, R187, R188). -/
structure XFault.OfDirectoryLoad (f : XFault) : Prop where
  phys : f.phys = 0
  cause : f.cause = .ddtFault ∨ f.cause = .ddtInvalid

theorem checkDirectoryEntry_error {entry : Option Word} {f : XFault} (h : checkDirectoryEntry entry = .error f) :
    f.OfDirectoryLoad := by
  unfold checkDirectoryEntry at h
  split at h
  next =>
    cases h
    exact ⟨rfl, .inl rfl⟩
  next =>
    split at h
    next => cases h
    next =>
      cases h
      exact ⟨rfl, .inr rfl⟩

theorem checkDeviceContext_error {bytes : Option (List Byte)} {f : XFault} (h : checkDeviceContext bytes = .error f) :
    f.OfDirectoryLoad := by
  unfold checkDeviceContext at h
  split at h
  next =>
    cases h
    exact ⟨rfl, .inl rfl⟩
  next =>
    split at h
    next => cases h
    next =>
      cases h
      exact ⟨rfl, .inr rfl⟩

/-- A walk of any depth faults in the load of an entry or of the Device Context (R183). -/
theorem walkDirectory_error {s : State} {did base : Word} {level : Nat} {f : XFault}
    (h : s.walkDirectory did level base = .error f) : f.OfDirectoryLoad := by
  induction level generalizing base with
  | zero => exact checkDeviceContext_error h
  | succ level ih =>
    rw [State.walkDirectory] at h
    split at h
    next entry =>
      cases h
      exact checkDirectoryEntry_error entry
    next => exact ih h

/-- A fetch faults outside the directory modes, on a device id out of range, or in its walk (R181, R182). -/
theorem fetchDC_error {s : State} {mode : DdtMode} {root did : Word} {f : XFault}
    (h : s.fetchDC mode root did = .error f) :
    (directoryDepth mode = none ∧ f = ⟨.ddtUnsupported, 0⟩) ∨
    (∃ d, directoryDepth mode = some d ∧ didInRange s.cfg d did = false ∧ f = ⟨.ddtInvalid, 0⟩) ∨
    (∃ d, directoryDepth mode = some d ∧ didInRange s.cfg d did = true ∧ s.walkDirectory did d root = .error f) := by
  unfold State.fetchDC at h
  split at h
  next depth =>
    cases h
    exact .inl ⟨depth, rfl⟩
  next d depth =>
    split at h
    next inRange => exact .inr (.inr ⟨d, depth, inRange, h⟩)
    next outside =>
      cases h
      exact .inr (.inl ⟨d, depth, Bool.eq_false_iff.mpr outside, rfl⟩)

theorem directoryDepth_eq_none_iff (mode : DdtMode) : directoryDepth mode = none ↔ mode = .off ∨ mode = .bare := by
  cases mode <;> simp [directoryDepth]

end Sys2Proof.Machine

namespace Sys2Proof.Proofs

open Sys2Proof.Machine Sys2Proof.Claims

/-- Settles O41, by the three places where a fetch faults: the mode, the range and the walk. -/
theorem directoryFaultsCarryNoPhys : Obligations.DirectoryFaultsCarryNoPhys := by
  unfold Obligations.DirectoryFaultsCarryNoPhys
  intro s mode root did f h
  rcases fetchDC_error h with ⟨depth, rfl⟩ | ⟨d, -, -, rfl⟩ | ⟨d, -, -, walked⟩
  · exact ⟨rfl, .inr (.inr ⟨rfl, (directoryDepth_eq_none_iff mode).mp depth⟩)⟩
  · exact ⟨rfl, .inr (.inl rfl)⟩
  · obtain ⟨phys, cause⟩ := walkDirectory_error walked
    exact ⟨phys, or_assoc.mp (.inl cause)⟩

end Sys2Proof.Proofs
end

section
/-! The translation invariants over every step: fetched contexts, requests answered exactly once, configured vectors
(R187, R342, R349, R350, R383). -/

namespace Sys2Proof.Machine

/-! ### The requests in flight or answered -/

/-- The tags of all requests, in flight or answered. -/
def State.requestTags (s : State) : List Nat := s.flights.map Flight.tag ++ answeredTags s.outbox

/-- Every request is in flight or answered exactly once: the tags are the numbers below the next tag, in some order
(log 11). -/
theorem answeredOnce_iff_perm (s : State) : s.AnsweredOnce ↔ s.requestTags.Perm (List.range s.nextTag) := by
  constructor
  · rintro ⟨nodup, below, kept⟩
    refine (List.perm_ext_iff_of_nodup nodup List.nodup_range).mpr fun tag => ?_
    rw [List.mem_range]
    exact ⟨below tag, kept tag⟩
  · intro perm
    exact ⟨perm.nodup_iff.mpr List.nodup_range, fun tag h => List.mem_range.mp (perm.mem_iff.mp h),
      fun tag h => perm.mem_iff.mpr (List.mem_range.mpr h)⟩

@[simp] theorem answeredTags_translated (tag : Nat) (r : TranslateResult) (out : List Response) :
    answeredTags (.translated tag r :: out) = tag :: answeredTags out := rfl

/-- Tags being distinct, the flights without an answered one have its tag erased. -/
theorem dropFlight_tags (fs : List Flight) (tag : Nat) (distinct : (fs.map Flight.tag).Nodup) :
    (dropFlight fs tag).map Flight.tag = (fs.map Flight.tag).erase tag := by
  rw [distinct.erase_eq_filter, List.filter_map, dropFlight]
  exact congrArg _ (List.filter_congr fun _ _ => decide_not)

/-! ### What the invariants say, and what keeps them -/

/-- The three translation invariants. -/
structure State.TranslationInv (s : State) : Prop where
  contexts : s.ContextsFetched
  answered : s.AnsweredOnce
  notifies : s.NotifiesConfigured

/-- Output that answers no request and notifies configured vectors alone. -/
structure OutputBesideAnswers (cfg : Config) (out : List Response) : Prop where
  answers : answeredTags out = []
  vectors : ∀ v e, Response.notify v e ∈ out → v < cfg.numVectors.val

theorem OutputBesideAnswers.nil (cfg : Config) : OutputBesideAnswers cfg [] := ⟨rfl, by simp⟩

theorem OutputBesideAnswers.append {cfg : Config} {a b : List Response} (ha : OutputBesideAnswers cfg a)
    (hb : OutputBesideAnswers cfg b) : OutputBesideAnswers cfg (a ++ b) where
  answers := by simp [ha.answers, hb.answers]
  vectors v e h := (List.mem_append.mp h).elim (ha.vectors v e) (hb.vectors v e)

/-- A raise notifies the queue's vector only where the configuration has it (R37, R383). -/
theorem raised_besideAnswers (s : State) (q : QueueId) : OutputBesideAnswers s.cfg (s.raised q) where
  answers := answeredTags_raised s q
  vectors v e h := by
    unfold State.raised at h
    split at h
    next armed =>
      cases List.mem_singleton.mp h
      exact armed.2
    next => cases h

/-- `t` has the requests of `s`, no valid cache entry that `s` does not have, and beside the output of `s` no answer. -/
structure State.KeepsTranslations (s t : State) : Prop where
  cfg : t.cfg = s.cfg
  flights : t.flights = s.flights
  nextTag : t.nextTag = s.nextTag
  das : ∀ e ∈ t.das, e.valid = true → e ∈ s.das
  outbox : ∃ out, t.outbox = out ++ s.outbox ∧ OutputBesideAnswers s.cfg out

/-- A change that leaves the cache and the output as they were. -/
theorem State.KeepsTranslations.of_same {s t : State} (cfg : t.cfg = s.cfg) (flights : t.flights = s.flights)
    (nextTag : t.nextTag = s.nextTag) (das : t.das = s.das) (outbox : t.outbox = s.outbox) :
    s.KeepsTranslations t :=
  ⟨cfg, flights, nextTag, fun _ h _ => das ▸ h, [], outbox, .nil _⟩

theorem State.KeepsTranslations.trans {s t u : State} (h : s.KeepsTranslations t) (k : t.KeepsTranslations u) :
    s.KeepsTranslations u := by
  obtain ⟨a, ha, aside⟩ := h.outbox
  obtain ⟨b, hb, bside⟩ := k.outbox
  exact ⟨k.cfg.trans h.cfg, k.flights.trans h.flights, k.nextTag.trans h.nextTag,
    fun e he valid => h.das e (k.das e he valid) valid,
    b ++ a, by rw [hb, ha, List.append_assoc], (h.cfg ▸ bside).append aside⟩

theorem State.TranslationInv.of_keeps {s t : State} (hs : s.TranslationInv) (h : s.KeepsTranslations t) :
    t.TranslationInv := by
  obtain ⟨⟨cached, carried⟩, answered, notifies⟩ := hs
  obtain ⟨cfg, flights, nextTag, das, out, outbox, aside⟩ := h
  refine ⟨⟨fun e he valid => ?_, ?_⟩, ?_, fun v e hv => ?_⟩
  · rw [cfg]
    exact cached e (das e he valid) valid
  · rw [cfg, flights]
    exact carried
  · have tags : t.requestTags = s.requestTags := by
      simp [State.requestTags, flights, outbox, aside.answers]
    rw [answeredOnce_iff_perm, tags, nextTag]
    exact (answeredOnce_iff_perm s).mp answered
  · rw [cfg]
    rw [outbox] at hv
    exact (List.mem_append.mp hv).elim (aside.vectors v e) (notifies v e)

/-! ### What the operations beside the translations keep -/

/-- What is handed out under a condition on a raise. -/
theorem raisedIf_besideAnswers (s : State) (q : QueueId) (b : Bool) :
    OutputBesideAnswers s.cfg (if b then s.raised q else []) := by
  split
  · exact raised_besideAnswers s q
  · exact .nil _

theorem endDrain_keepsTranslations (s : State) : s.KeepsTranslations s.endDrain := by
  rw [State.endDrain_eq]
  exact ⟨rfl, rfl, rfl, fun _ h _ => h, _, rfl, raisedIf_besideAnswers s .cq _⟩

theorem stopDrain_keepsTranslations (s : State) (i : Nat) : s.KeepsTranslations (s.stopDrain i) := by
  have marked : s.KeepsTranslations { s with cq := { s.cq with csr := withBit s.cq.csr i true } } :=
    .of_same rfl rfl rfl rfl rfl
  exact marked.trans (endDrain_keepsTranslations _)

theorem store_keepsTranslations (s : State) (a : Word) (bs : List Byte) : s.KeepsTranslations (s.store a bs) :=
  .of_same rfl rfl rfl rfl rfl

theorem failedStore_keepsTranslations (s : State) (a : Word) (n : Nat) : s.KeepsTranslations (s.failedStore a n) :=
  .of_same rfl rfl rfl rfl rfl

theorem setFqStatus_keepsTranslations (s : State) (i : Nat) : s.KeepsTranslations (s.setFqStatus i) :=
  .of_same rfl rfl rfl rfl rfl

theorem recordWritten_keepsTranslations (s : State) : s.KeepsTranslations s.recordWritten := by
  rw [State.recordWritten_eq]
  exact ⟨rfl, rfl, rfl, fun _ h _ => h, _, rfl, raisedIf_besideAnswers s .fq _⟩

theorem report_keepsTranslations (s : State) (did : Word) (c : Cause) (ttyp : BitVec 6) (iova phys : Word) :
    s.KeepsTranslations (s.report did c ttyp iova phys) := by
  rcases s.report_cases did c ttyp iova phys with ⟨-, e⟩ | ⟨-, -, e⟩ | ⟨-, -, -, e⟩ | ⟨-, -, -, e⟩ <;> rw [e]
  · exact .of_same rfl rfl rfl rfl rfl
  · exact setFqStatus_keepsTranslations s _
  · exact (failedStore_keepsTranslations s _ _).trans (setFqStatus_keepsTranslations _ _)
  · exact (store_keepsTranslations s _ _).trans (recordWritten_keepsTranslations _)

/-- Invalidating every entry leaves none valid (R291). -/
theorem not_valid_of_mem_invalidateAll {c : DasCache} {e : DasEntry} (h : e ∈ c.invalidateAll) : e.valid = false := by
  obtain ⟨x, -, rfl⟩ := List.mem_map.mp h
  rfl

/-- An entry still valid after the invalidation of one device stood in the cache (R297). -/
theorem mem_of_mem_invalidate {c : DasCache} {did : Word} {e : DasEntry} (h : e ∈ c.invalidate did)
    (valid : e.valid = true) : e ∈ c := by
  obtain ⟨x, hx, rfl⟩ := List.mem_map.mp h
  split at valid
  next => cases valid
  next other => rwa [if_neg other]

/-- An entry valid after a lookup's touch stood in the cache: the one created is not valid (R342). -/
theorem mem_of_mem_touch {c : DasCache} {did : Word} {e : DasEntry} (h : e ∈ c.touch did) (valid : e.valid = true) :
    e ∈ c := by
  unfold DasCache.touch at h
  split at h
  next => exact h
  next =>
    rcases DasCache.mem_put h with rfl | old
    · cases valid
    · exact old

theorem touchCache_keepsTranslations (s : State) (did : Word) : s.KeepsTranslations (s.touchCache did) :=
  ⟨rfl, rfl, rfl, fun _ h valid => mem_of_mem_touch h valid, [], rfl, .nil _⟩

theorem exec_keepsTranslations {i : Instr} {s t : State} (h : exec i s = .next t) : s.KeepsTranslations t := by
  rcases exec_cases h with rfl | ⟨_, dv, did, -, rfl⟩ | ⟨_, _, _, _, _, -, -, rfl⟩ | ⟨_, _, _, _, addr, -, -, rfl⟩
  · exact .of_same rfl rfl rfl rfl rfl
  · refine ⟨rfl, rfl, rfl, fun e he valid => ?_, [], rfl, .nil _⟩
    cases dv
    · exact absurd valid (by simp [not_valid_of_mem_invalidateAll he])
    · exact mem_of_mem_invalidate he valid
  · exact .of_same rfl rfl rfl rfl rfl
  · exact (failedStore_keepsTranslations s _ _).trans (stopDrain_keepsTranslations _ _)

theorem ddtpStep_keepsTranslations (s : State) : s.KeepsTranslations s.ddtpStep := by
  refine ⟨by simp, by simp, by simp, fun e he valid => ?_, [], by simp, .nil _⟩
  rcases ddtpStep_das s with same | cleared
  · rwa [same] at he
  · rw [cleared] at he
    exact absurd valid (by simp [not_valid_of_mem_invalidateAll he])

theorem mmioWrite_keepsTranslations (s : State) (a n : Nat) (v : Word) : s.KeepsTranslations (s.mmioWrite a n v) := by
  have same := mmioWrite_sameBehindRegisters s a n v
  exact .of_same same.cfg same.flights same.nextTag same.das same.outbox

theorem mmioData_keepsTranslations (s : State) (a n : Nat) (v : Word) :
    s.KeepsTranslations (s.emit (.mmioData a n v)) :=
  ⟨rfl, rfl, rfl, fun _ h _ => h, [.mmioData a n v], rfl, rfl, by simp⟩

/-! ### The context that a translation goes on to carry -/

/-- The context that a translation carries where it now stands. -/
def Progress.context : Progress → Option DC
  | .wait p => p.context
  | .answer _ => none

@[simp] theorem faultNoContext_context (f : XFault) : (faultNoContext f).context = none := rfl

@[simp] theorem faultWithContext_context (dc : DC) (iova : Word) (f : XFault) :
    (faultWithContext dc iova f).context = none := by
  unfold faultWithContext
  split <;> rfl

theorem ofWalk_context {dc dc' : DC} {iova : Word} {w : WalkProgress} (h : (ofWalk dc iova w).context = some dc') :
    dc' = dc := by
  unfold ofWalk at h
  split at h
  next =>
    cases h
    rfl
  next => cases h
  next => simp at h

/-- The pipeline carries on the context that it is given, or none (R344). -/
theorem withContext_context {cfg : Config} {dc dc' : DC} {iova : Word} {access : Access}
    (h : (withContext cfg dc iova access).context = some dc') : dc' = dc := by
  unfold withContext at h
  split at h
  next => simp at h
  next =>
    split at h
    next => simp at h
    next => cases h
    next => exact ofWalk_context h

@[simp] theorem startDirectory_context (cfg : Config) (mode : DdtMode) (root did : Word) :
    (startDirectory cfg mode root did).context = none := by
  unfold startDirectory
  split
  · rfl
  · split <;> rfl

/-- A lookup goes on with the context of a valid cache entry, or with none (R342). -/
theorem lookup_context_fetched {s : State} {did iova : Word} {access : Access} {dc : DC} (hs : s.ContextsFetched)
    (h : (s.lookup did iova access).context = some dc) : dc.Fetched s.cfg := by
  unfold State.lookup at h
  split at h
  next hit =>
    obtain ⟨e, he, -, valid, rfl⟩ := DasCache.hit_mem hit
    cases withContext_context h
    exact hs.cached e he valid
  next => simp at h

theorem firstStep_context_fetched {s : State} {did iova : Word} {access : Access} {dc : DC} (hs : s.ContextsFetched)
    (h : (s.firstStep did iova access).1.context = some dc) : dc.Fetched s.cfg := by
  unfold State.firstStep at h
  split at h
  next => cases h
  next => cases h
  next => exact lookup_context_fetched hs h
  next => exact lookup_context_fetched hs h
  next => exact lookup_context_fetched hs h

/-- A flight's step gives it the context it has loaded, or the one that it carried (R349). -/
theorem flightStep_context_fetched {s : State} {f : Flight} {dc : DC} (hs : s.ContextsFetched) (hf : f ∈ s.flights)
    (h : (s.flightStep f).1.context = some dc) : dc.Fetched s.cfg := by
  have carried := hs.carried f hf
  unfold State.flightStep at h
  split at h
  next =>
    split at h
    next => cases h
    next loaded =>
      cases h
      exact fetched_of_checkDeviceContext loaded
  next => split at h <;> cases h
  next dc' phase =>
    cases withContext_context h
    exact carried dc (by rw [phase]; rfl)
  next dc' p phase =>
    cases ofWalk_context h
    exact carried dc (by rw [phase]; rfl)
  next => cases h

/-! ### The translation invariants over the steps of a translation -/

/-- A fill with a fetched context makes a valid entry of it (R342). -/
theorem State.TranslationInv.fillCache {s : State} (hs : s.TranslationInv) (did : Word) {dc : DC}
    (fetched : dc.Fetched s.cfg) : (s.fillCache did dc).TranslationInv := by
  obtain ⟨⟨cached, carried⟩, ⟨nodup, below, kept⟩, notifies⟩ := hs
  refine ⟨⟨fun e he valid => ?_, carried⟩, ⟨nodup, below, kept⟩, notifies⟩
  rcases DasCache.mem_put he with rfl | old
  · exact fetched
  · exact cached e old valid

/-- A flight goes on to a phase that carries a fetched context, or none. -/
theorem State.TranslationInv.setPhase {s : State} (hs : s.TranslationInv) (tag : Nat) {p : Phase}
    (fetched : ∀ dc, p.context = some dc → dc.Fetched s.cfg) :
    ({ s with flights := Machine.setPhase s.flights tag p } : State).TranslationInv := by
  obtain ⟨⟨cached, carried⟩, answered, notifies⟩ := hs
  refine ⟨⟨cached, fun f hf dc hdc => ?_⟩, ?_, notifies⟩
  · obtain ⟨g, hg, rfl⟩ := List.mem_map.mp hf
    split at hdc
    next => exact fetched dc hdc
    next => exact carried g hg dc hdc
  · rw [answeredOnce_iff_perm] at answered ⊢
    simpa [State.requestTags] using answered

/-- A flight leaves with its answer: its tag goes from the flights to the answers. -/
theorem State.TranslationInv.answerFlight {s : State} (hs : s.TranslationInv) {f : Flight} (hf : f ∈ s.flights)
    (r : TranslateResult) :
    ({ s with
      flights := dropFlight s.flights f.tag
      outbox := .translated f.tag r :: s.outbox } : State).TranslationInv := by
  obtain ⟨⟨cached, carried⟩, answered, notifies⟩ := hs
  refine ⟨⟨cached, fun g hg => carried g (List.mem_of_mem_filter hg)⟩, ?_, fun v e hv => ?_⟩
  · have distinct : (s.flights.map Flight.tag).Nodup := answered.nodup.of_append_left
    have moved : (((s.flights.map Flight.tag).erase f.tag) ++ f.tag :: answeredTags s.outbox).Perm s.requestTags :=
      List.perm_middle.trans (((List.perm_cons_erase (List.mem_map_of_mem hf)).symm).append_right _)
    rw [answeredOnce_iff_perm] at answered ⊢
    rw [State.requestTags, answeredTags_translated, dropFlight_tags _ _ distinct]
    exact moved.trans answered
  · exact notifies v e (by simpa using hv)

/-- A new request takes the next tag and is in flight. -/
theorem State.TranslationInv.addFlight {s : State} (hs : s.TranslationInv) {f : Flight} (tag : f.tag = s.nextTag)
    (fetched : ∀ dc, f.phase.context = some dc → dc.Fetched s.cfg) :
    ({ s with nextTag := s.nextTag + 1, flights := s.flights ++ [f] } : State).TranslationInv := by
  obtain ⟨⟨cached, carried⟩, answered, notifies⟩ := hs
  refine ⟨⟨cached, fun g hg => ?_⟩, ?_, notifies⟩
  · rcases List.mem_append.mp hg with old | new
    · exact carried g old
    · cases List.mem_singleton.mp new
      exact fetched
  · have added : (s.flights.map Flight.tag ++ [s.nextTag] ++ answeredTags s.outbox).Perm
        (s.requestTags ++ [s.nextTag]) := by
      rw [State.requestTags, List.append_assoc, List.append_assoc]
      exact List.perm_append_comm.append_left _
    rw [answeredOnce_iff_perm] at answered ⊢
    rw [State.requestTags, List.map_append, List.map_singleton, tag, List.range_succ]
    exact added.trans (answered.append_right _)

/-- A new request takes the next tag and is answered at once. -/
theorem State.TranslationInv.addAnswer {s : State} (hs : s.TranslationInv) (r : TranslateResult) :
    ({ s with nextTag := s.nextTag + 1, outbox := .translated s.nextTag r :: s.outbox } : State).TranslationInv := by
  obtain ⟨⟨cached, carried⟩, answered, notifies⟩ := hs
  refine ⟨⟨cached, carried⟩, ?_, fun v e hv => notifies v e (by simpa using hv)⟩
  have added : (s.flights.map Flight.tag ++ s.nextTag :: answeredTags s.outbox).Perm
      (s.requestTags ++ [s.nextTag]) :=
    List.perm_middle.trans (List.perm_append_singleton _ _).symm
  rw [answeredOnce_iff_perm] at answered ⊢
  rw [State.requestTags, answeredTags_translated, List.range_succ]
  exact added.trans (answered.append_right _)

/-- A request's first step keeps the translation invariants (R341, R342). -/
theorem State.TranslationInv.beginTranslate {s : State} (hs : s.TranslationInv) (did iova : Word) (access : Access) :
    (s.beginTranslate did iova access).TranslationInv := by
  have keeps : s.KeepsTranslations (s.firstStep did iova access).2 := by
    rcases firstStep_cases s did iova access with e | e <;> rw [e]
    · exact .of_same rfl rfl rfl rfl rfl
    · exact touchCache_keepsTranslations s did
  have looked := hs.of_keeps keeps
  have outbox : (s.firstStep did iova access).2.outbox = s.outbox := by
    rcases firstStep_cases s did iova access with e | e <;> rw [e]
    rfl
  rw [beginTranslate_eq, ← keeps.nextTag, ← keeps.flights, ← outbox]
  split
  next r _ => exact looked.addAnswer r
  next p hp =>
    refine looked.addFlight rfl fun dc hdc => ?_
    rw [keeps.cfg]
    exact firstStep_context_fetched hs.contexts (by rw [hp]; exact hdc)

/-- A flight's step keeps the translation invariants (R349). -/
theorem State.TranslationInv.advanceFlight {s : State} (hs : s.TranslationInv) {f : Flight} (hf : f ∈ s.flights) :
    (s.advanceFlight f).TranslationInv := by
  have stepped : (s.flightStep f).2.TranslationInv ∧ (s.flightStep f).2.cfg = s.cfg ∧
      (s.flightStep f).2.flights = s.flights := by
    rcases flightStep_cases s f with e | ⟨dc, phase, e⟩ | ⟨c, phys, -, e⟩ <;> rw [e]
    · exact ⟨hs, rfl, rfl⟩
    · have fetched : dc.Fetched s.cfg := hs.contexts.carried f hf dc (by rw [phase]; rfl)
      exact ⟨hs.fillCache f.did fetched, rfl, rfl⟩
    · have keeps := report_keepsTranslations s f.did c (ttypOf f.access) f.iova phys
      exact ⟨hs.of_keeps keeps, keeps.cfg, keeps.flights⟩
  obtain ⟨inv, cfg, flights⟩ := stepped
  rw [advanceFlight_eq]
  split
  next p hp =>
    refine inv.setPhase f.tag fun dc hdc => ?_
    rw [cfg]
    exact flightStep_context_fetched hs.contexts hf (hp ▸ hdc)
  next r _ => exact inv.answerFlight (flights ▸ hf) r

/-- Every step keeps the translation invariants. -/
theorem step_translationInv {s t : State} (h : step s = .next t) (hs : s.TranslationInv) : t.TranslationInv := by
  refine step_preserves (P := State.TranslationInv) ?agenda ?mmioRead ?mmioWrite ?beginTranslate ?advanceFlight
    ?hostWrite ?hostNoRead ?hostNoWrite ?hostPba ?endDrain ?stopDrain ?exec ?startDrain ?csrStep ?ddtpStep h hs
  case agenda | hostNoRead | hostNoWrite => exact fun s _ hs => hs.of_keeps (.of_same rfl rfl rfl rfl rfl)
  case hostWrite | hostPba => exact fun s _ _ hs => hs.of_keeps (.of_same rfl rfl rfl rfl rfl)
  case startDrain => exact fun s _ hs => hs.of_keeps (.of_same rfl rfl rfl rfl rfl)
  case mmioRead => exact fun s a n v hs => hs.of_keeps (mmioData_keepsTranslations s a n v)
  case mmioWrite => exact fun s a n v hs => hs.of_keeps (mmioWrite_keepsTranslations s a n v)
  case beginTranslate => exact fun s did iova access hs => hs.beginTranslate did iova access
  case advanceFlight => exact fun s f hf hs => hs.advanceFlight hf
  case endDrain => exact fun s _ hs => hs.of_keeps (endDrain_keepsTranslations s)
  case stopDrain => exact fun s i _ _ hs => hs.of_keeps (stopDrain_keepsTranslations s i)
  case exec => exact fun i s t _ he hs => hs.of_keeps (exec_keepsTranslations he)
  case csrStep =>
    exact fun s q _ hs => hs.of_keeps (.of_same (by simp) (by simp) (by simp) (by simp) (by simp))
  case ddtpStep => exact fun s _ hs => hs.of_keeps (ddtpStep_keepsTranslations s)

end Sys2Proof.Machine

namespace Sys2Proof.Proofs

open Sys2Proof.Machine Sys2Proof.Claims

/-- Settles O58: the steps of a translation keep the three invariants together, and the other steps leave the requests and
the valid cache entries alone. -/
theorem stepKeepsTranslationInvariants : Obligations.StepKeepsTranslationInvariants := by
  unfold Obligations.StepKeepsTranslationInvariants
  intro s t hc ha hn h
  obtain ⟨contexts, answered, notifies⟩ := step_translationInv h ⟨hc, ha, hn⟩
  exact ⟨contexts, answered, notifies⟩

end Sys2Proof.Proofs
end

section
/-! The page-table walk (R211 to R227): what one PTE grants, where a pass ends or faults, and what the chained stages make
of it. -/

namespace Sys2Proof.Machine

/-! ### Permissions -/

theorem needsR_iff (access : Access) : access.needsR = true ↔ access = .read ∨ access = .rw := by
  cases access <;> simp [Access.needsR]

theorem needsW_iff (access : Access) : access.needsW = true ↔ access = .write ∨ access = .rw := by
  cases access <;> simp [Access.needsW]

theorem hasR_iff (perm : Perm) : perm.hasR = true ↔ perm = .r ∨ perm = .rw := by
  cases perm <;> simp [Perm.hasR]

theorem hasW_iff (perm : Perm) : perm.hasW = true ↔ perm = .w ∨ perm = .rw := by
  cases perm <;> simp [Perm.hasW]

@[simp] theorem hasR_ofBits (r w : Bool) : (Perm.ofBits r w).hasR = r := by
  cases r <;> cases w <;> rfl

@[simp] theorem hasW_ofBits (r w : Bool) : (Perm.ofBits r w).hasW = w := by
  cases r <;> cases w <;> rfl

@[simp] theorem hasR_inter (p q : Perm) : (p.inter q).hasR = (p.hasR && q.hasR) := hasR_ofBits _ _

@[simp] theorem hasW_inter (p q : Perm) : (p.inter q).hasW = (p.hasW && q.hasW) := hasW_ofBits _ _

/-- The permission covers what the access needs (R222). -/
structure Perm.Grants (perm : Perm) (access : Access) : Prop where
  read : access.needsR = true → perm.hasR = true
  write : access.needsW = true → perm.hasW = true

theorem grants_rw (access : Access) : Perm.rw.Grants access := ⟨fun _ => rfl, fun _ => rfl⟩

/-- Two stages that both grant an access grant it together (R224, R226). -/
theorem Perm.Grants.inter {p q : Perm} {access : Access} (hp : p.Grants access) (hq : q.Grants access) :
    (p.inter q).Grants access where
  read needed := by simp [hp.read needed, hq.read needed]
  write needed := by simp [hp.write needed, hq.write needed]

/-! ### The page offset -/

theorem getLsbD_lowMask (k i : Nat) : (lowMask k).getLsbD i = (decide (i < 64) && decide (i < k)) := by
  rw [lowMask, BitVec.getLsbD_ofNat, Nat.testBit_two_pow_sub_one]

/-- A leaf at any level keeps the offset in its page (R223). -/
theorem leafAddr_offset (r : Radix) (addr pte : Word) (level : Nat) :
    leafAddr r addr pte level &&& 0xFFF = addr &&& 0xFFF := by
  refine and_congr_of_bits fun i hi => ?_
  have low : i < 12 := by
    have hi : (lowMask 12).getLsbD i = true := hi
    simp only [getLsbD_lowMask, Bool.and_eq_true, decide_eq_true_eq] at hi
    exact hi.2
  have inPage : (lowMask (12 + level * r.indexBits)).getLsbD i = true := by
    simp only [getLsbD_lowMask, Bool.and_eq_true, decide_eq_true_eq]
    omega
  have frame : (ptePage r pte).getLsbD i = false := by simp [ptePage, low]
  rw [leafAddr, BitVec.getLsbD_or, BitVec.getLsbD_and, frame, inPage, Bool.false_or, Bool.and_true]

/-! ### The checks of one PTE -/

/-- The permission check is what remains for a valid, well-formed and aligned leaf (R222, R227). -/
theorem checkPte_of_wellFormed {r : Radix} {pte : Word} {level : Nat} (valid : pteV pte = true)
    (leaf : pteR pte = true ∨ (pteW pte = false ∧ pteX pte = true))
    (aligned : level = 0 ∨ ptePpn r pte &&& lowMask (level * r.indexBits) = 0)
    (stageOne : Bool) (addr : Word) (access : Access) :
    checkPte r stageOne addr level access (some pte) =
      if access.needsR = true ∧ pteR pte = false then .fault (readFaultCause stageOne)
      else if access.needsW = true ∧ pteW pte = false then .fault (writeFaultCause stageOne)
      else .leaf (leafAddr r addr pte level) (Perm.ofBits (pteR pte) (pteW pte)) := by
  have superpage : ¬ (level ≠ 0 ∧ ptePpn r pte &&& lowMask (level * r.indexBits) ≠ 0) := by
    rintro ⟨hlevel, hppn⟩
    exact aligned.elim hlevel hppn
  simp only [checkPte, if_neg superpage]
  rcases leaf with readable | ⟨notWritable, executable⟩
  · simp [valid, readable]
  · simp [valid, notWritable, executable]

/-- A PTE taken as a leaf is one whose bits grant the access (R222, R223). -/
theorem checkPte_leaf {r : Radix} {stageOne : Bool} {addr : Word} {level : Nat} {access : Access} {loaded : Option Word}
    {pa : Word} {perm : Perm} (h : checkPte r stageOne addr level access loaded = .leaf pa perm) :
    ∃ pte, pa = leafAddr r addr pte level ∧ perm.Grants access := by
  unfold checkPte at h
  split at h
  next => cases h
  next pte =>
    repeat' split at h
    all_goals cases h
    next readable writable =>
      refine ⟨pte, rfl, ⟨fun needed => ?_, fun needed => ?_⟩⟩
      · simpa [needed] using readable
      · simpa [needed] using writable

/-- The causes of the faults of a pass (R211, R212, R213, R216 to R222). -/
def passCauses (stageOne : Bool) : List Cause :=
  [.ddtUnsupported, .dmaDisabled, .pdtFault, .pdtInvalid, readFaultCause stageOne, writeFaultCause stageOne]

theorem checkPte_fault {r : Radix} {stageOne : Bool} {addr : Word} {level : Nat} {access : Access}
    {loaded : Option Word} {c : Cause} (h : checkPte r stageOne addr level access loaded = .fault c) :
    c ∈ passCauses stageOne := by
  unfold checkPte at h
  split at h
  next =>
    cases h
    simp [passCauses]
  next =>
    repeat' split at h
    all_goals cases h <;> simp [passCauses]

/-! ### One pass -/

/-- A result that maps the page of `addr`, keeps the offset in it, and grants the access (R222, R223, R226). -/
structure WalkResult.MapsPage (w : WalkResult) (addr : Word) (access : Access) : Prop where
  mask : w.mask = 0xFFF
  offset : w.pa &&& 0xFFF = addr &&& 0xFFF
  grants : w.perm.Grants access

theorem mapsPage_of_leaf {r : Radix} {stageOne : Bool} {addr : Word} {level : Nat} {access : Access}
    {loaded : Option Word} {pa : Word} {perm : Perm} (h : checkPte r stageOne addr level access loaded = .leaf pa perm) :
    WalkResult.MapsPage ⟨pa, 0xFFF, perm⟩ addr access := by
  obtain ⟨pte, rfl, grants⟩ := checkPte_leaf h
  exact ⟨rfl, leafAddr_offset r addr pte level, grants⟩

/-- Two pages chained are one (R224, R226). -/
theorem WalkResult.MapsPage.chain {one two : WalkResult} {addr : Word} {access : Access} (h1 : one.MapsPage addr access)
    (h2 : two.MapsPage one.pa access) : WalkResult.MapsPage ⟨two.pa, 0xFFF, one.perm.inter two.perm⟩ addr access where
  mask := rfl
  offset := h2.offset.trans h1.offset
  grants := h1.grants.inter h2.grants

/-- A fault that a pass over `addr` raises: its cause is one of the pass's, its phys the pass's (R211, R222). -/
structure XFault.OfPass (f : XFault) (stageOne : Bool) (addr : Word) : Prop where
  phys : f.phys = passPhys stageOne addr
  cause : f.cause ∈ passCauses stageOne

/-- The levels of a pass end at a leaf of one of them (R215). -/
theorem walkLevels_ok {s : State} {r : Radix} {stageOne : Bool} {addr base : Word} {access : Access} {level : Nat}
    {pa : Word} {perm : Perm} (h : s.walkLevels r stageOne addr access level base = .ok (pa, perm)) :
    WalkResult.MapsPage ⟨pa, 0xFFF, perm⟩ addr access := by
  induction level, base using State.walkLevels.induct s r stageOne addr access with
  | case1 level base c verdict => simp [State.walkLevels, verdict] at h
  | case2 level base pa' perm' verdict =>
    obtain ⟨rfl, rfl⟩ : pa' = pa ∧ perm' = perm := by simpa [State.walkLevels, verdict] using h
    exact mapsPage_of_leaf verdict
  | case3 base next verdict => simp [State.walkLevels, verdict] at h
  | case4 base next level verdict ih =>
    rw [State.walkLevels, verdict] at h
    exact ih h

/-- The levels of a pass fault at a PTE of one of them (R216 to R222). -/
theorem walkLevels_error {s : State} {r : Radix} {stageOne : Bool} {addr base : Word} {access : Access} {level : Nat}
    {f : XFault} (h : s.walkLevels r stageOne addr access level base = .error f) : f.OfPass stageOne addr := by
  induction level, base using State.walkLevels.induct s r stageOne addr access with
  | case1 level base c verdict =>
    obtain rfl : ⟨c, passPhys stageOne addr⟩ = f := by simpa [State.walkLevels, verdict] using h
    exact ⟨rfl, checkPte_fault verdict⟩
  | case2 level base pa perm verdict => simp [State.walkLevels, verdict] at h
  | case3 base next verdict =>
    obtain rfl : ⟨.pdtInvalid, passPhys stageOne addr⟩ = f := by simpa [State.walkLevels, verdict] using h
    exact ⟨rfl, by simp [passCauses]⟩
  | case4 base next level verdict ih =>
    rw [State.walkLevels, verdict] at h
    exact ih h

/-- A pass that succeeds is BARE's identity or maps a page (R212, R223). -/
theorem walkPass_ok {s : State} {atp : Word} {stageOne : Bool} {addr : Word} {access : Access} {w : WalkResult}
    (h : s.walkPass atp stageOne addr access = .ok w) :
    (atpMode atp = .bare ∧ w = ⟨addr, BitVec.allOnes 64, .rw⟩) ∨ w.MapsPage addr access := by
  unfold State.walkPass at h
  split at h
  next bare =>
    cases h
    exact .inl ⟨bare, rfl⟩
  next => cases h
  next =>
    split at h
    next => cases h
    next =>
      split at h
      next => cases h
      next hlevels =>
        cases h
        exact .inr (walkLevels_ok hlevels)

/-- A pass faults on its mode, on the width of the address, or at a PTE (R211 to R222). -/
theorem walkPass_error {s : State} {atp : Word} {stageOne : Bool} {addr : Word} {access : Access} {f : XFault}
    (h : s.walkPass atp stageOne addr access = .error f) : f.OfPass stageOne addr := by
  unfold State.walkPass at h
  split at h
  next => cases h
  next =>
    cases h
    exact ⟨rfl, by simp [passCauses]⟩
  next =>
    split at h
    next =>
      cases h
      exact ⟨rfl, by simp [passCauses]⟩
    next =>
      split at h
      next hlevels =>
        cases h
        exact walkLevels_error hlevels
      next => cases h

/-- The width check stands before the levels, which read the memory (R213). -/
theorem walkPass_of_not_addressFits (s : State) {atp : Word} {r : Radix} {stageOne : Bool} {addr : Word} (access : Access)
    (radix : atpMode atp = .radix r) (wide : addressFits r stageOne addr = false) :
    s.walkPass atp stageOne addr access = .error ⟨.dmaDisabled, passPhys stageOne addr⟩ := by
  rw [State.walkPass, radix]
  simp [wide]

/-! ### The stages chained -/

/-- A walk that succeeds is a BARE root's identity or maps a page, through one stage or both (R212, R224, R226). -/
theorem walk_ok {s : State} {iova gatp satp : Word} {doStage1 : Bool} {access : Access} {w : WalkResult}
    (h : s.walk iova gatp satp doStage1 access = .ok w) :
    w = ⟨iova, BitVec.allOnes 64, .rw⟩ ∨ w.MapsPage iova access := by
  unfold State.walk at h
  split at h
  next => exact (walkPass_ok h).imp_left And.right
  next =>
    split at h
    next =>
      cases h
      exact .inl rfl
    next notBare =>
      split at h
      next => cases h
      next one stageOne =>
        obtain ⟨bare, -⟩ | first := walkPass_ok stageOne
        · exact absurd bare notBare
        split at h
        next =>
          cases h
          exact .inr first
        next translated =>
          split at h
          next => cases h
          next two stageTwo =>
            cases h
            obtain ⟨bare, -⟩ | second := walkPass_ok stageTwo
            · exact absurd bare translated
            exact .inr (first.chain second)

/-- A walk with a stage-one table faults in stage one, or in stage two on the address that stage one gave (R224). -/
theorem walk_error {s : State} {iova gatp satp : Word} {access : Access} {f : XFault}
    (h : s.walk iova gatp satp true access = .error f) :
    s.walkPass satp true iova access = .error f ∨
      ∃ one, s.walkPass satp true iova access = .ok one ∧ s.walkPass gatp false one.pa access = .error f := by
  rw [State.walk, if_neg (by decide)] at h
  split at h
  next => cases h
  next =>
    split at h
    next stageOne =>
      cases h
      exact .inl stageOne
    next one stageOne =>
      split at h
      next => cases h
      next =>
        split at h
        next f stageTwo =>
          cases h
          have phys : f.phys = one.pa := (walkPass_error stageTwo).phys
          exact .inr ⟨one, stageOne, phys ▸ stageTwo⟩
        next => cases h

end Sys2Proof.Machine

namespace Sys2Proof.Proofs

open Sys2Proof.Machine Sys2Proof.Claims

/-- Settles O47: the identity of BARE grants read and write, and a page grants what its leaves were checked for. -/
theorem walkGrantsOnlyPermittedAccesses : Obligations.WalkGrantsOnlyPermittedAccesses := by
  unfold Obligations.WalkGrantsOnlyPermittedAccesses
  intro s iova gatp satp doStage1 access w h
  have granted : w.perm.Grants access := by
    rcases walk_ok h with rfl | page
    · exact grants_rw access
    · exact page.grants
  exact ⟨fun asked => (hasR_iff _).mp (granted.read ((needsR_iff _).mpr asked)),
    fun asked => (hasW_iff _).mp (granted.write ((needsW_iff _).mpr asked))⟩

/-- Settles O48: the two kinds of success of a walk. -/
theorem walkKeepsThePageOffset : Obligations.WalkKeepsThePageOffset := by
  unfold Obligations.WalkKeepsThePageOffset
  intro s iova gatp satp doStage1 access w h
  rcases walk_ok h with rfl | page
  · exact .inl ⟨rfl, rfl, rfl⟩
  · exact .inr ⟨page.mask, page.offset⟩

/-- Settles O49: the fault is that of one of the two passes, and each pass has its own phys and causes. -/
theorem faultSaysWhichStage : Obligations.FaultSaysWhichStage := by
  unfold Obligations.FaultSaysWhichStage
  intro s iova gatp satp access f h
  rcases walk_error h with stageOne | ⟨one, stageOne, stageTwo⟩
  · obtain ⟨phys, cause⟩ := walkPass_error stageOne
    exact .inl ⟨stageOne, phys, ne_of_mem_of_not_mem cause (by decide), ne_of_mem_of_not_mem cause (by decide)⟩
  · obtain ⟨phys, cause⟩ := walkPass_error stageTwo
    exact .inr ⟨one, stageOne, stageTwo, phys, ne_of_mem_of_not_mem cause (by decide),
      ne_of_mem_of_not_mem cause (by decide)⟩

/-- Settles O45: an address that does not fit faults before the first load. -/
theorem widthCheckPrecedesMemory : Obligations.WidthCheckPrecedesMemory := by
  unfold Obligations.WidthCheckPrecedesMemory
  intro s atp stageOne addr access r radix wide
  exact walkPass_of_not_addressFits s access radix (beq_eq_false_iff_ne.mpr wide)

/-- Settles O46: what an access needs is read off its type. -/
theorem permissionFaultCauses : Obligations.PermissionFaultCauses := by
  unfold Obligations.PermissionFaultCauses
  intro r stageOne addr level access pte valid leaf aligned
  simp only [← needsR_iff, ← needsW_iff]
  exact checkPte_of_wellFormed valid leaf aligned stageOne addr access

end Sys2Proof.Proofs
end

section
/-! The MSI window check (R250 to R261): which addresses are in the window, the mode as a number, and one equation per
outcome of the check. -/

namespace Sys2Proof.Machine

theorem inMsiWindow_iff (dc : DC) (iova : Word) :
    inMsiWindow dc iova = true ↔ (iova >>> 12) &&& dc.msiAddrMask = dc.msiAddrPattern := beq_iff_eq

theorem inMsiWindow_eq_false_iff (dc : DC) (iova : Word) :
    inMsiWindow dc iova = false ↔ (iova >>> 12) &&& dc.msiAddrMask ≠ dc.msiAddrPattern := beq_eq_false_iff_ne

/-- In the window the pattern has no bit outside the mask, since the masked page number has none (R261). -/
theorem pattern_and_not_mask_of_inMsiWindow {dc : DC} {iova : Word} (h : inMsiWindow dc iova = true) :
    dc.msiAddrPattern &&& ~~~dc.msiAddrMask = 0 := by
  rw [← (inMsiWindow_iff dc iova).mp h, BitVec.and_assoc, BitVec.and_not_self]
  exact BitVec.and_zero

/-- The top four bits of a word are what a shift by 60 leaves of it. -/
theorem field_top_eq_iff (v : Word) (code : BitVec 4) : field v 60 4 = code ↔ v >>> 60 = code.setWidth 64 := by
  simp only [← BitVec.toNat_inj, field, BitVec.extractLsb'_toNat, BitVec.toNat_ushiftRight, BitVec.toNat_setWidth,
    Nat.shiftRight_eq_div_pow]
  omega

/-- The mode of `msiptp`, by the number above its 60 low bits (R115, R117). -/
theorem DC.msiMode_eq (dc : DC) :
    dc.msiMode = if dc.msiptp >>> 60 = 0 then .off else if dc.msiptp >>> 60 = 1 then .bare
      else if dc.msiptp >>> 60 = 2 then .flat else .unrecognized := by
  simp only [DC.msiMode, field_top_eq_iff]
  rfl

theorem DC.msiMode_of_zero {dc : DC} (h : dc.msiptp >>> 60 = 0) : dc.msiMode = .off := by
  rw [dc.msiMode_eq, if_pos h]

theorem DC.msiMode_of_one {dc : DC} (h : dc.msiptp >>> 60 = 1) : dc.msiMode = .bare := by
  rw [dc.msiMode_eq, h]
  rfl

theorem DC.msiMode_of_two_le {dc : DC} (h : 2 ≤ (dc.msiptp >>> 60).toNat) :
    dc.msiMode = .flat ∨ dc.msiMode = .unrecognized := by
  have notOff : dc.msiptp >>> 60 ≠ 0 := by bv_omega
  have notBare : dc.msiptp >>> 60 ≠ 1 := by bv_omega
  rw [dc.msiMode_eq, if_neg notOff, if_neg notBare]
  exact ite_eq_or_eq _ _ _

/-- Every mode number is that of OFF, that of BARE, or at least 2. -/
theorem mode_zero_or_one_or_two_le (v : Word) : v = 0 ∨ v = 1 ∨ 2 ≤ v.toNat := by bv_omega

/-- What each mode answers to a page-aligned write in the window: the last test of R259 (R254 to R257). -/
def MsiMode.answer (iova : Word) : MsiMode → Except XFault MsiAnswer
  | .off => .error ⟨.ddtInvalid, 0⟩
  | .bare => .ok (.ok iova 0xFFF .w)
  | .flat | .unrecognized => .error ⟨.ddtUnsupported, 0⟩

section
variable {cfg : Config} {dc : DC} {iova : Word} {access : Access}

/-- Outside the window, or with no MSI remapping, the walk follows (R251, R258). -/
theorem msiCheck_of_outside
    (h : cfg.msiEnabled = false ∨ (iova >>> 12) &&& dc.msiAddrMask ≠ dc.msiAddrPattern) :
    msiCheck cfg dc iova access = .ok .fallThrough := by
  rcases h with disabled | outside
  · simp [msiCheck, disabled]
  · simp [msiCheck, (inMsiWindow_eq_false_iff dc iova).mpr outside]

variable (enabled : cfg.msiEnabled = true) (inside : (iova >>> 12) &&& dc.msiAddrMask = dc.msiAddrPattern)
include enabled inside

/-- In the window anything but a page-aligned write faults, whatever the mode is (R252, R253). -/
theorem msiCheck_of_not_alignedWrite (refused : access ≠ .write ∨ iova &&& 0xFFF ≠ 0) :
    msiCheck cfg dc iova access = .error ⟨.mrifFault, 0⟩ := by
  have matched := (inMsiWindow_iff dc iova).mpr inside
  rcases refused with notWrite | unaligned
  · simp [msiCheck, enabled, matched, notWrite]
  · simp only [msiCheck, enabled, matched, if_pos unaligned, Bool.not_true, Bool.false_eq_true, if_false, ite_self]

variable (aligned : iova &&& 0xFFF = 0)
include aligned

/-- In the window a page-aligned write is answered by the mode alone (R254 to R257). -/
theorem msiCheck_of_alignedWrite : msiCheck cfg dc iova .write = dc.msiMode.answer iova := by
  simp only [msiCheck, enabled, (inMsiWindow_iff dc iova).mpr inside, aligned, ne_eq, not_true_eq_false,
    Bool.not_true, Bool.false_eq_true, if_false]
  rfl

theorem msiCheck_of_off (mode : dc.msiptp >>> 60 = 0) :
    msiCheck cfg dc iova .write = .error ⟨.ddtInvalid, 0⟩ := by
  rw [msiCheck_of_alignedWrite enabled inside aligned, DC.msiMode_of_zero mode, MsiMode.answer]

theorem msiCheck_of_bare (mode : dc.msiptp >>> 60 = 1) :
    msiCheck cfg dc iova .write = .ok (.ok iova 0xFFF .w) := by
  rw [msiCheck_of_alignedWrite enabled inside aligned, DC.msiMode_of_one mode, MsiMode.answer]

theorem msiCheck_of_unsupported (mode : 2 ≤ (dc.msiptp >>> 60).toNat) :
    msiCheck cfg dc iova .write = .error ⟨.ddtUnsupported, 0⟩ := by
  rw [msiCheck_of_alignedWrite enabled inside aligned]
  rcases DC.msiMode_of_two_le mode with flat | unrecognized
  · rw [flat, MsiMode.answer]
  · rw [unrecognized, MsiMode.answer]

end

/-- A fault is its phys and its cause. -/
theorem error_mk_eq_iff {c : Cause} {p : Word} {f : XFault} :
    (Except.error ⟨c, p⟩ : Except XFault MsiAnswer) = .error f ↔ f.phys = p ∧ f.cause = c := by
  rw [Except.error.injEq, eq_comm, and_comm]
  cases f
  rw [XFault.mk.injEq]

/-- An answer is its address, its mask and its permission. -/
theorem ok_mk_eq_iff {a m pa mask : Word} {p perm : Perm} :
    (Except.ok (.ok a m p) : Except XFault MsiAnswer) = .ok (.ok pa mask perm) ↔ pa = a ∧ mask = m ∧ perm = p := by
  rw [Except.ok.injEq, eq_comm, MsiAnswer.ok.injEq]

end Sys2Proof.Machine

namespace Sys2Proof.Proofs

open Sys2Proof.Machine Sys2Proof.Claims

/-- Settles O43: a match makes the pattern a masked value, and a zero mask masks every page number to 0. -/
theorem msiMatchBoundaries : Obligations.MsiMatchBoundaries := by
  unfold Obligations.MsiMatchBoundaries
  intro dc iova
  refine ⟨fun stray => ?_, fun zeroMask zeroPattern => ?_⟩
  · exact Bool.eq_false_iff.mpr fun matched => stray (pattern_and_not_mask_of_inMsiWindow matched)
  · rw [inMsiWindow_iff, zeroMask, zeroPattern]
    exact BitVec.and_zero

/-- Settles O44: the outcomes of the check, split as R259 orders its tests. -/
theorem msiAnswersOnlyAlignedWrites : Obligations.MsiAnswersOnlyAlignedWrites := by
  unfold Obligations.MsiAnswersOnlyAlignedWrites
  intro cfg dc iova access
  by_cases outside : cfg.msiEnabled = false ∨ (iova >>> 12) &&& dc.msiAddrMask ≠ dc.msiAddrPattern
  · rw [msiCheck_of_outside outside]
    rcases outside with disabled | unmatched
    · simp [disabled]
    · simp [unmatched]
  obtain ⟨enabled, inside⟩ : cfg.msiEnabled = true ∧ (iova >>> 12) &&& dc.msiAddrMask = dc.msiAddrPattern := by
    simpa using outside
  simp only [enabled, inside, true_and]
  by_cases refused : access ≠ .write ∨ iova &&& 0xFFF ≠ 0
  · rw [msiCheck_of_not_alignedWrite enabled inside refused]
    simp only [error_mk_eq_iff]
    rcases refused with notWrite | unaligned
    · simp [notWrite]
    · simp only [unaligned, ne_eq, not_false_eq_true]
      simp
  obtain ⟨rfl, aligned⟩ : access = .write ∧ iova &&& 0xFFF = 0 := by tauto
  simp only [aligned, true_and]
  rcases mode_zero_or_one_or_two_le (dc.msiptp >>> 60) with off | bare | unsupported
  · rw [msiCheck_of_off enabled inside aligned off]
    simp only [error_mk_eq_iff, off]
    simp
  · rw [msiCheck_of_bare enabled inside aligned bare]
    simp only [ok_mk_eq_iff, bare]
    simp
  · rw [msiCheck_of_unsupported enabled inside aligned unsupported]
    have notOff : dc.msiptp >>> 60 ≠ 0 := by bv_omega
    have notBare : dc.msiptp >>> 60 ≠ 1 := by bv_omega
    simp only [error_mk_eq_iff, notOff, notBare, unsupported]
    simp

end Sys2Proof.Proofs
end

section
/-! The priority encoder, and the steps of a drain pass (R271, R272, R279 to R286). -/

namespace Sys2Proof.Machine

open Claims

/-! ### What the encoder picks -/

theorem elim_find?_cons {α β : Type} (p : α → Bool) (b : β) (f : α → β) (a : α) (as : List α) :
    ((a :: as).find? p).elim b f = if p a then f a else (as.find? p).elim b f := by
  rw [List.find?_cons]
  cases p a <;> rfl

theorem processorStep_eq_elim (s : State) : s.processorStep = s.selected.elim (.next s) s.serve := by
  unfold State.processorStep
  cases s.selected <;> rfl

/-- The encoder's order written out: each step is taken when its condition holds and none before it does (R271, R272). -/
theorem processorStep_eq (s : State) :
    s.processorStep =
      if s.pending .drain then s.drainStep
      else if s.pending .startDrain then .next s.startDrain
      else if s.pending (.csr .cq) then .next (s.csrStep .cq)
      else if s.pending (.csr .fq) then .next (s.csrStep .fq)
      else if s.pending (.csr .pq) then .next (s.csrStep .pq)
      else if s.pending .ddtp then .next s.ddtpStep
      else .next s := by
  simp only [processorStep_eq_elim, State.selected, priorityOrder, elim_find?_cons]
  rfl

/-- With no pass running, a doorbell is served (R271). -/
theorem processorStep_of_doorbell {s : State} (idle : s.cqDraining = false) (rung : s.cqDoorbell = true) :
    s.processorStep = .next s.startDrain := by
  rw [processorStep_eq]
  simp [State.pending, idle, rung]

theorem drainAllowed_eq (csr : Reg32) :
    drainAllowed csr = (csr.getLsbD 16 && !csr.getLsbD 8 && !csr.getLsbD 10) := rfl

/-- While a pass runs, the machine's step without an agenda is the pass's (log 6). -/
theorem step_of_draining {s : State} (empty : s.agenda = []) (draining : s.cqDraining = true) :
    step s = s.drainStep := by
  have first : s.selected = some .drain := by simp [State.selected, priorityOrder, State.pending, draining]
  rw [step_of_agenda_nil empty, State.defaultStep, first]
  rfl

/-! ### The three other outcomes of a drain step -/

/-- A pass at its tail ends (R281, R285). -/
theorem drainStep_of_empty {s : State} (empty : s.cq.head = s.cq.tail) : s.drainStep = .next s.endDrain := by
  rw [State.drainStep, if_pos empty]

/-- A failed read of the head slot stops the pass (R282). -/
theorem drainStep_of_fetch_none {s : State} (waiting : s.cq.head ≠ s.cq.tail) (failed : s.fetchCommand = none) :
    s.drainStep = .next (s.stopDrain faultBit) := by
  rw [State.drainStep, if_neg waiting, failed]

/-- Bytes at the head that decode are executed (R281). -/
theorem drainStep_of_decode_ok {s : State} {bytes : List Byte} {i : Instr} (waiting : s.cq.head ≠ s.cq.tail)
    (fetched : s.fetchCommand = some bytes) (decoded : decode bytes = .ok i) : s.drainStep = exec i s := by
  rw [State.drainStep, if_neg waiting, fetched]
  simp only [decoded]

/-! ### What a drain step leaves alone -/

/-- The directory, the other queues, the doorbell, and of the command queue all but CQH and its status bits: what the steps of
a drain pass keep (R271, R305). -/
structure State.SameOutsidePass (s t : State) : Prop where
  ddtp : t.ddtp = s.ddtp
  ddtMode : t.ddtMode = s.ddtMode
  ddtBase : t.ddtBase = s.ddtBase
  fq : t.fq = s.fq
  pq : t.pq = s.pq
  doorbell : t.cqDoorbell = s.cqDoorbell
  cq : t.cq = { s.cq with qh := t.cq.qh, csr := t.cq.csr }
  control : t.cq.csr &&& 0x30003 = s.cq.csr &&& 0x30003

theorem endDrain_sameOutsidePass (s : State) : s.SameOutsidePass s.endDrain := by
  constructor <;> simp

/-- A stop sets a status bit, which is none of ENABLE, IRQ_ENABLE, ACTIVE and BUSY (R282, R284). -/
theorem stopDrain_sameOutsidePass (s : State) {i : Nat} (status : (0x30003 : Reg32).getLsbD i = false) :
    s.SameOutsidePass (s.stopDrain i) where
  ddtp := s.stopDrain_ddtp i
  ddtMode := s.stopDrain_ddtMode i
  ddtBase := s.stopDrain_ddtBase i
  fq := s.stopDrain_fq i
  pq := s.stopDrain_pq i
  doorbell := s.stopDrain_cqDoorbell i
  cq := by rw [State.stopDrain_cq]
  control := by
    rw [State.stopDrain_cq]
    exact withBit_and _ _ status

theorem exec_sameOutsidePass {i : Instr} {s t : State} (h : exec i s = .next t) : s.SameOutsidePass t := by
  rcases exec_cases h with rfl | ⟨_, _, _, -, rfl⟩ | ⟨_, _, _, _, _, -, -, rfl⟩ | ⟨_, _, _, _, addr, -, -, rfl⟩
  · exact ⟨rfl, rfl, rfl, rfl, rfl, rfl, rfl, rfl⟩
  · exact ⟨rfl, rfl, rfl, rfl, rfl, rfl, rfl, rfl⟩
  · exact ⟨rfl, rfl, rfl, rfl, rfl, rfl, rfl, rfl⟩
  · obtain ⟨ddtp, ddtMode, ddtBase, fq, pq, doorbell, cq, control⟩ :=
      stopDrain_sameOutsidePass (s.failedStore (fenceAddr addr) 4) (i := faultBit) (by decide)
    exact ⟨ddtp, ddtMode, ddtBase, fq, pq, doorbell, cq, control⟩

theorem drainStep_sameOutsidePass {s t : State} (h : s.drainStep = .next t) : s.SameOutsidePass t := by
  rcases drainStep_cases h with ⟨-, rfl⟩ | ⟨-, -, rfl⟩ | ⟨_, _, -, -, -, rfl⟩ | ⟨_, i, -, -, -, hx⟩
  · exact endDrain_sameOutsidePass s
  · exact stopDrain_sameOutsidePass s (by decide)
  · exact stopDrain_sameOutsidePass s (by decide)
  · exact exec_sameOutsidePass hx

end Sys2Proof.Machine

namespace Sys2Proof.Proofs

open Sys2Proof.Machine Sys2Proof.Claims

/-- Settles O5: the drain step executes what it decodes, and the agenda is no part of what it fetches. -/
theorem stepRunsDecodedCommand : Obligations.StepRunsDecodedCommand := by
  unfold Obligations.StepRunsDecodedCommand
  intro s bytes i draining waiting fetched decoded
  refine ⟨fun empty => ?_, fun rest next => ?_⟩
  · rw [step_of_draining empty draining]
    exact drainStep_of_decode_ok waiting fetched decoded
  · rw [step_of_agenda_cons next]
    have drains : ({ s with agenda := rest } : State).processorStep = ({ s with agenda := rest } : State).drainStep :=
      processorStep_of_draining draining
    exact drains.trans (drainStep_of_decode_ok waiting fetched decoded)

/-- Settles O8: the failed read is the second outcome of a drain step. -/
theorem failedCommandReadStopsThePass : Obligations.FailedCommandReadStopsThePass := by
  unfold Obligations.FailedCommandReadStopsThePass
  intro s draining waiting failed
  rw [processorStep_of_draining draining, drainStep_of_fetch_none waiting failed, stopDrain_faultBit_eq_passEnded]

/-- Settles O9: the empty queue is the first outcome of a drain step. -/
theorem emptyQueueEndsThePass : Obligations.EmptyQueueEndsThePass := by
  unfold Obligations.EmptyQueueEndsThePass
  intro s draining empty
  rw [processorStep_of_draining draining, drainStep_of_empty empty, endDrain_eq_passEnded]

/-- Settles O10: the doorbell is the first condition that holds, and the guard of R279 is `drainAllowed`. -/
theorem doorbellStartsAPassOrIsConsumed : Obligations.DoorbellStartsAPassOrIsConsumed := by
  unfold Obligations.DoorbellStartsAPassOrIsConsumed
  intro s idle rung
  rw [processorStep_of_doorbell idle rung, State.startDrain, idle, Bool.or_false, drainAllowed_eq]

/-- Settles O11: the encoder's conditions are the bits that the rule names. -/
theorem priorityEncoderOrder : Obligations.PriorityEncoderOrder := by
  unfold Obligations.PriorityEncoderOrder
  intro s
  exact processorStep_eq s

/-- Settles O12: a pass that runs has the processor's step, and each of its outcomes keeps what is outside the pass. -/
theorem passRunsAheadOfControlChanges : Obligations.PassRunsAheadOfControlChanges := by
  unfold Obligations.PassRunsAheadOfControlChanges
  intro s t draining h
  rw [processorStep_of_draining draining] at h
  obtain ⟨ddtp, ddtMode, ddtBase, fq, pq, doorbell, cq, control⟩ := drainStep_sameOutsidePass h
  exact ⟨ddtp, ddtMode, ddtBase, fq, pq, doorbell, cq, control⟩

end Sys2Proof.Proofs
end

section
/-! The effects and the frame of the commands (R293 to R304). -/

namespace Sys2Proof.Machine

open Claims

/-! ### The head's advance, and the cache that IODIR.INV_DDT leaves -/

/-- The end of a command in the terms of the statements (R283). -/
theorem commandDone_eq_headAdvanced (s : State) : s.commandDone = headAdvanced s := rfl

/-- The cache after an IODIR.INV_DDT of these operands (R297). -/
def DasCache.afterInvDdt (c : DasCache) (dv : Bool) (did : BitVec 24) : DasCache :=
  if dv then c.invalidate (did.setWidth 64) else c.invalidateAll

theorem exec_iodirInvDdt (s : State) (pid : BitVec 20) (dv : Bool) (did : BitVec 24) :
    exec (.iodirInvDdt pid dv did) s = .next { headAdvanced s with das := s.das.afterInvDdt dv did } := rfl

/-- IODIR.INV_DDT clears the flags it names and no other (R297). -/
theorem find_afterInvDdt (c : DasCache) (dv : Bool) (did : BitVec 24) (d : Word) :
    (c.afterInvDdt dv did).find d =
      (c.find d).map (fun e => if dv = false ∨ d = did.setWidth 64 then { e with valid := false } else e) := by
  cases dv
  · simp [DasCache.afterInvDdt]
  · simp only [DasCache.afterInvDdt, if_true, DasCache.find_invalidate]
    cases found : c.find d with
    | none => rfl
    | some e =>
      obtain ⟨-, rfl⟩ := DasCache.find_mem found
      simp

/-- A cleared flag stays cleared: a second IODIR.INV_DDT leaves the same list (R297). -/
theorem afterInvDdt_afterInvDdt (c : DasCache) (dv : Bool) (did : BitVec 24) :
    (c.afterInvDdt dv did).afterInvDdt dv did = c.afterInvDdt dv did := by
  cases dv
  · simp [DasCache.afterInvDdt, DasCache.invalidateAll]
  · simp only [DasCache.afterInvDdt, if_true, DasCache.invalidate, List.map_map]
    refine List.map_congr_left fun e _ => ?_
    by_cases named : e.did = did.setWidth 64 <;> simp [named]

theorem dc_find_afterInvDdt (c : DasCache) (dv : Bool) (did : BitVec 24) (d : Word) :
    ((c.afterInvDdt dv did).find d).map DasEntry.dc = (c.find d).map DasEntry.dc := by
  rw [find_afterInvDdt, Option.map_map]
  refine congrArg (fun g => (c.find d).map g) (funext fun e => ?_)
  simp only [Function.comp]
  split <;> rfl

/-- What a lookup hits after an IODIR.INV_DDT it hit before (R297). -/
theorem hit_of_hit_afterInvDdt {c : DasCache} {dv : Bool} {did : BitVec 24} {d : Word} {dc : DC}
    (h : (c.afterInvDdt dv did).hit d = some dc) : c.hit d = some dc := by
  cases dv
  · simp [DasCache.afterInvDdt] at h
  · simp only [DasCache.afterInvDdt, if_true, hit_invalidate] at h
    split at h
    · cases h
    · exact h

/-! ### The frame of a command -/

/-- Only IODIR.INV_DDT changes the cache (R297). -/
theorem exec_das {i : Instr} {s t : State} (h : exec i s = .next t) :
    t.das = s.das ∨ ∃ pid dv did, i = .iodirInvDdt pid dv did ∧ t.das = s.das.afterInvDdt dv did := by
  rcases exec_cases h with rfl | ⟨pid, dv, did, rfl, rfl⟩ | ⟨_, _, _, _, _, -, -, rfl⟩ | ⟨_, _, _, _, _, -, -, rfl⟩
  · exact .inl rfl
  · exact .inr ⟨pid, dv, did, rfl, rfl⟩
  · exact .inl rfl
  · exact .inl (by simp)

/-- A command completes, with the head advanced and beside it at most the cache and memory changed, or its failed write stops
the pass (R283, R296, R297). -/
theorem exec_completed_or_stopped {i : Instr} {s t : State} (h : exec i s = .next t) :
    (∃ das mem, t = { headAdvanced s with das := das, mem := mem }) ∨
      ∃ mem draws, t = { passEnded (cqStatusSet s 0x100) with mem := mem, draws := draws } := by
  rcases exec_cases h with rfl | ⟨_, _, _, -, rfl⟩ | ⟨_, _, _, _, _, -, -, rfl⟩ | ⟨_, _, _, _, _, -, -, rfl⟩
  · exact .inl ⟨_, _, rfl⟩
  · exact .inl ⟨_, _, rfl⟩
  · exact .inl ⟨_, _, rfl⟩
  · rw [stopDrain_faultBit_eq_passEnded]
    exact .inr ⟨_, _, rfl⟩

end Sys2Proof.Machine

namespace Sys2Proof.Proofs

open Sys2Proof.Machine Sys2Proof.Claims

/-- Settles O15: each of these commands is the head's advance alone. -/
theorem noEffectCommandsOnlyAdvanceTheHead : Obligations.NoEffectCommandsOnlyAdvanceTheHead := by
  unfold Obligations.NoEffectCommandsOnlyAdvanceTheHead
  intro s
  rw [← commandDone_eq_headAdvanced]
  refine ⟨?_, ?_, ?_, ?_, ?_, ?_, ?_, ?_⟩ <;> intros <;> rfl

/-- Settles O16, by what a lookup finds after an IODIR.INV_DDT. -/
theorem invDdtClearsValidFlags : Obligations.InvDdtClearsValidFlags := by
  unfold Obligations.InvDdtClearsValidFlags
  intro s pid dv did
  exact ⟨_, exec_iodirInvDdt s pid dv did, rfl, find_afterInvDdt s.das dv did⟩

/-- Settles O17: clearing flags is idempotent. -/
theorem invDdtTwiceEqualsOnce : Obligations.InvDdtTwiceEqualsOnce := by
  unfold Obligations.InvDdtTwiceEqualsOnce
  intro s t pid dv did h
  rw [exec_iodirInvDdt] at h ⊢
  cases h
  rw [afterInvDdt_afterInvDdt]
  rfl

/-- Settles O20: a command completes or is stopped by its failed write, and only IODIR.INV_DDT has the cache. -/
theorem commandFrame : Obligations.CommandFrame := by
  unfold Obligations.CommandFrame
  intro i s t h
  have das : (∀ pid dv did, i ≠ .iodirInvDdt pid dv did) → t.das = s.das := fun other =>
    (exec_das h).resolve_right fun ⟨pid, dv, did, hi, _⟩ => other pid dv did hi
  rcases exec_completed_or_stopped h with ⟨_, _, rfl⟩ | ⟨_, _, rfl⟩
  · exact ⟨rfl, .inr rfl, .inl rfl, .inl rfl, das⟩
  · refine ⟨rfl, .inl rfl, .inr rfl, ?_, das⟩
    by_cases irq : (cqStatusSet s 0x100).cq.csr.getLsbD 1 = true
    · exact .inr (if_pos irq)
    · exact .inl (if_neg irq)

/-- Settles O22: no command has the directory or a flight, and the one that has the cache clears flags. -/
theorem commandsKeepDirectoryAndContexts : Obligations.CommandsKeepDirectoryAndContexts := by
  unfold Obligations.CommandsKeepDirectoryAndContexts
  intro i s t h
  have kept : t.ddtMode = s.ddtMode ∧ t.ddtBase = s.ddtBase ∧ t.flights = s.flights := by
    rcases exec_completed_or_stopped h with ⟨_, _, rfl⟩ | ⟨_, _, rfl⟩ <;> exact ⟨rfl, rfl, rfl⟩
  obtain ⟨ddtMode, ddtBase, flights⟩ := kept
  refine ⟨ddtMode, ddtBase, flights, ?_⟩
  rcases exec_das h with das | ⟨_, dv, did, -, das⟩ <;> rw [das]
  · exact ⟨fun _ => rfl, fun _ _ hit => hit⟩
  · exact ⟨dc_find_afterInvDdt s.das dv did, fun _ _ hit => hit_of_hit_afterInvDdt hit⟩

end Sys2Proof.Proofs
end

section
/-! Queue control changes, and the cache after a DDTP step (R273 to R278, R291). -/

namespace Sys2Proof.Machine

/-! ### Cleared bits, as masks -/

/-- Two masks cleared one after the other are one mask cleared. -/
theorem and_not_and_not {w : Nat} (v a b : BitVec w) : v &&& ~~~a &&& ~~~b = v &&& ~~~(a ||| b) := by
  rw [BitVec.and_assoc, BitVec.not_or]

/-- The error bits that an enable transition clears, as a mask (R275). -/
theorem clearErrors_eq (q : QueueId) (csr : Reg32) :
    clearErrors q csr = csr &&& ~~~(if q = .cq then 0x500 else 0x300) := by
  cases q <;> exact and_not_and_not csr _ _

/-- ACTIVE and BUSY cleared together are bits 16 and 17 (R274, R276). -/
theorem clear_active_busy (csr : Reg32) :
    withBit (withBit csr activeBit false) busyBit false = csr &&& ~~~0x30000 :=
  and_not_and_not csr _ _

/-! ### The transition that ENABLE and ACTIVE select -/

theorem controlTransition_of_enable (q : QueueId) {v : Queue} (enable : bit v.csr enableBit = true)
    (inactive : bit v.csr activeBit = false) : controlTransition q v = enabledQueue q v := by
  simp [controlTransition, enable, inactive]

theorem controlTransition_of_disable (q : QueueId) {v : Queue} (disable : bit v.csr enableBit = false)
    (active : bit v.csr activeBit = true) : controlTransition q v = disabledQueue v := by
  simp [controlTransition, disable, active]

theorem controlTransition_of_same (q : QueueId) {v : Queue} (same : bit v.csr enableBit = bit v.csr activeBit) :
    controlTransition q v = v := by
  simp [controlTransition, same]

/-! ### A DDTP step that keeps the mode -/

/-- A DDTP step that keeps the mode leaves the cache as it is (R291). -/
theorem ddtpStep_das_of_mode_eq {s : State} (h : s.ddtpStep.ddtMode = s.ddtMode) : s.ddtpStep.das = s.das := by
  rcases ddtpStep_cases s with ⟨m, -, e⟩ | e <;> rw [e] at h ⊢
  · exact if_neg (not_not_intro h)
  · rfl

end Sys2Proof.Machine

namespace Sys2Proof.Proofs

open Sys2Proof.Machine Sys2Proof.Claims

/-- Settles O23: ENABLE without ACTIVE selects the enable transition. -/
theorem enableTransition : Obligations.EnableTransition := by
  unfold Obligations.EnableTransition
  intro s q enable inactive
  rw [State.csrStep, controlTransition_of_enable q enable inactive, clearBusy, enabledQueue, clearErrors_eq]
  rfl

/-- Settles O24: ACTIVE without ENABLE selects the disable transition. -/
theorem disableTransition : Obligations.DisableTransition := by
  unfold Obligations.DisableTransition
  intro s q disable active
  rw [State.csrStep, controlTransition_of_disable q disable active, clearBusy, disabledQueue, clear_active_busy]

/-- Settles O25: ENABLE = ACTIVE selects no transition. -/
theorem noTransitionOnlyClearsBusy : Obligations.NoTransitionOnlyClearsBusy := by
  unfold Obligations.NoTransitionOnlyClearsBusy
  intro s q same
  rw [State.csrStep, controlTransition_of_same q same]
  rfl

/-- Settles O27: a mode change is an accepted request, which alone invalidates. -/
theorem modeChangeInvalidatesTheCache : Obligations.ModeChangeInvalidatesTheCache := by
  unfold Obligations.ModeChangeInvalidatesTheCache
  intro s
  refine ⟨fun changed d => ?_, ddtpStep_das_of_mode_eq⟩
  rw [ddtpStep_das_of_mode_ne changed, DasCache.find_invalidateAll]

end Sys2Proof.Proofs
end

section
/-! The indices of a queue modulo its size, and the slot that the drain step fetches (R24, R31, R281, R283, R287). -/

namespace Sys2Proof.Machine

open Claims

/-! ### The size of a queue -/

/-- How many slots a queue has (R32). -/
def Queue.size (q : Queue) : Nat := q.mask.toNat + 1

theorem toNat_lowMask {k : Nat} (h : k ≤ 64) : (lowMask k).toNat = 2 ^ k - 1 := by
  have pos : 0 < 2 ^ k := Nat.two_pow_pos k
  have le : 2 ^ k ≤ 2 ^ 64 := Nat.pow_le_pow_right (by decide) h
  rw [lowMask, BitVec.toNat_ofNat, Nat.mod_eq_of_lt (by omega)]

/-- The mask of a well-shaped queue is `2^k - 1`, with `k = 0` before the first enable (R32, R43). -/
theorem Queue.Shaped.exists_mask {q : Queue} (h : q.Shaped) : ∃ k ≤ 32, q.mask = lowMask k := by
  rcases h.mask with zero | ⟨k, -, hk, hmask⟩
  · exact ⟨0, by decide, zero⟩
  · exact ⟨k, hk, hmask⟩

theorem Queue.Shaped.exists_size {q : Queue} (h : q.Shaped) : ∃ k ≤ 32, q.mask = lowMask k ∧ q.size = 2 ^ k := by
  obtain ⟨k, hk, hmask⟩ := h.exists_mask
  refine ⟨k, hk, hmask, ?_⟩
  have pos : 0 < 2 ^ k := Nat.two_pow_pos k
  rw [Queue.size, hmask, toNat_lowMask (by omega)]
  omega

theorem Queue.size_pos (q : Queue) : 0 < q.size := Nat.succ_pos _

theorem Queue.Shaped.size_le {q : Queue} (h : q.Shaped) : q.size ≤ 2 ^ 32 := by
  obtain ⟨k, hk, -, hsize⟩ := h.exists_size
  exact hsize ▸ Nat.pow_le_pow_right (by decide) hk

theorem Queue.Shaped.size_dvd {q : Queue} (h : q.Shaped) : q.size ∣ 2 ^ 64 := by
  obtain ⟨k, hk, -, hsize⟩ := h.exists_size
  exact hsize ▸ Nat.pow_dvd_pow 2 (by omega)

/-- Masking an index is reducing it modulo the size (R24, R31). -/
theorem Queue.Shaped.toNat_and_mask {q : Queue} (h : q.Shaped) (i : Word) :
    (i &&& q.mask).toNat = i.toNat % q.size := by
  obtain ⟨k, hk, hmask, hsize⟩ := h.exists_size
  rw [hsize, hmask, BitVec.toNat_and, toNat_lowMask (by omega), Nat.and_two_pow_sub_one_eq_mod]

theorem Queue.Shaped.and_mask_lt {q : Queue} (h : q.Shaped) (i : Word) : (i &&& q.mask).toNat < q.size := by
  rw [h.toNat_and_mask]
  exact Nat.mod_lt _ q.size_pos

/-- Indices may be masked before they are added to (R24). -/
theorem Queue.Shaped.and_mask_add_and_mask {q : Queue} (h : q.Shaped) (i j : Word) :
    ((i &&& q.mask) + j) &&& q.mask = (i + j) &&& q.mask := by
  apply BitVec.eq_of_toNat_eq
  rw [h.toNat_and_mask, h.toNat_and_mask, BitVec.toNat_add, BitVec.toNat_add, h.toNat_and_mask,
    Nat.mod_mod_of_dvd _ h.size_dvd, Nat.mod_mod_of_dvd _ h.size_dvd, Nat.mod_add_mod]

/-! ### The head after a command -/

/-- The next index wraps at the size (R24, R283). -/
theorem Queue.Shaped.toNat_next {q : Queue} (h : q.Shaped) (i : Word) : (q.next i).toNat = (i.toNat + 1) % q.size := by
  rw [Queue.next, h.toNat_and_mask, BitVec.toNat_add, Nat.mod_mod_of_dvd _ h.size_dvd]
  rfl

/-- An index fits its 32-bit register (R31, log 18). -/
theorem Queue.Shaped.toNat_setWidth_next {q : Queue} (h : q.Shaped) (i : Word) :
    ((q.next i).setWidth 32).toNat = (i.toNat + 1) % q.size := by
  have small : (i.toNat + 1) % q.size < 2 ^ 32 := Nat.lt_of_lt_of_le (Nat.mod_lt _ q.size_pos) h.size_le
  rw [BitVec.toNat_setWidth, h.toNat_next, Nat.mod_eq_of_lt small]

theorem Queue.Shaped.toNat_head {q : Queue} (h : q.Shaped) : q.head.toNat = q.qh.toNat % q.size := by
  have fits : q.qh.toNat < 2 ^ 64 := Nat.lt_of_lt_of_le q.qh.isLt (by decide)
  rw [Queue.head, h.toNat_and_mask, BitVec.toNat_setWidth, Nat.mod_eq_of_lt fits]

/-- A done command moves CQH on by one, modulo the size (R283). -/
theorem toNat_qh_commandDone {s : State} (h : s.cq.Shaped) :
    s.commandDone.cq.qh.toNat = (s.cq.qh.toNat + 1) % s.cq.size := by
  rw [State.commandDone_cq]
  dsimp only
  rw [h.toNat_setWidth_next, h.toNat_head, Nat.mod_add_mod]

/-! ### The address of a slot -/

theorem toNat_pageAddr (ppn : BitVec 44) : (pageAddr ppn).toNat = ppn.toNat * 2 ^ 12 := by
  have := ppn.isLt
  rw [pageAddr, BitVec.toNat_shiftLeft, BitVec.toNat_setWidth, Nat.shiftLeft_eq]
  omega

/-- Byte `k` of a slot: the queue lies below 2^57, so no address of it wraps (R24, R43). -/
theorem Queue.Shaped.toNat_slotByte {q : Queue} (h : q.Shaped) {i : Word} (hi : i.toNat < q.size) {k : Nat}
    (hk : k < 16) : (commandSlot q i + BitVec.ofNat 64 k).toNat = q.base.toNat + i.toNat * 16 + k := by
  obtain ⟨ppn, hbase⟩ := h.base
  have base : q.base.toNat < 2 ^ 56 := by
    have := ppn.isLt
    rw [hbase, toNat_pageAddr]
    omega
  have size : q.size ≤ 2 ^ 32 := h.size_le
  have stride : (16 : Word).toNat = 16 := rfl
  simp only [commandSlot, BitVec.toNat_add, BitVec.toNat_mul, BitVec.toNat_ofNat, stride]
  omega

theorem Queue.Shaped.toNat_commandSlot {q : Queue} (h : q.Shaped) {i : Word} (hi : i.toNat < q.size) :
    (commandSlot q i).toNat = q.base.toNat + i.toNat * 16 := by
  simpa using h.toNat_slotByte hi (k := 0) (by decide)

/-! ### What is fetched -/

/-- A read depends on no byte of memory outside it (R71). -/
theorem memRead_congr {s : State} {m : Memory} {a : Word} {n : Nat}
    (same : ∀ k < n, readByte m (a + BitVec.ofNat 64 k) = readByte s.mem (a + BitVec.ofNat 64 k)) :
    ({ s with mem := m } : State).memRead a n = s.memRead a n := by
  simp only [State.memRead, readBytes_congr m s.mem a n same]

/-- The command fetched depends on no byte of memory outside the queue's slots (R281, R287). -/
theorem fetchCommand_congr {s : State} (h : s.cq.Shaped) {m : Memory}
    (same : ∀ x : Word, s.cq.base.toNat ≤ x.toNat → x.toNat < s.cq.base.toNat + s.cq.size * 16 →
      readByte m x = readByte s.mem x) :
    ({ s with mem := m } : State).fetchCommand = s.fetchCommand := by
  have head : s.cq.head.toNat < s.cq.size := h.and_mask_lt _
  refine memRead_congr (s := s) (a := commandSlot s.cq s.cq.head) fun k hk => ?_
  have byte := h.toNat_slotByte head hk
  exact same _ (by omega) (by omega)

end Sys2Proof.Machine

namespace Sys2Proof.Proofs

open Sys2Proof.Machine Sys2Proof.Claims

/-- Settles O13: the masked head is below the size, and no address of the queue wraps. -/
theorem commandFetchStaysInTheQueue : Obligations.CommandFetchStaysInTheQueue := by
  unfold Obligations.CommandFetchStaysInTheQueue
  intro s h
  have head : s.cq.head.toNat < s.cq.mask.toNat + 1 := h.and_mask_lt _
  have slot : (commandSlot s.cq s.cq.head).toNat = s.cq.base.toNat + s.cq.head.toNat * 16 := h.toNat_commandSlot head
  exact ⟨rfl, by omega, by omega, fun m same => fetchCommand_congr h same, toNat_qh_commandDone h⟩

end Sys2Proof.Proofs
end

section
/-! A drain pass from its doorbell to its end (R279, R281, R285, R420). -/

namespace Sys2Proof.Machine

open Claims

/-! ### Steps in a row -/

theorem processorSteps_of_next {s t : State} (h : s.processorStep = .next t) (n : Nat) :
    processorSteps (n + 1) s = processorSteps n t := by
  simp only [processorSteps, h]

/-- One step more at the end of a row. -/
theorem processorSteps_succ {s t u : State} {n : Nat} (steps : processorSteps n s = some t)
    (last : t.processorStep = .next u) : processorSteps (n + 1) s = some u := by
  induction n generalizing s with
  | zero =>
    cases steps
    exact processorSteps_of_next last 0
  | succ n ih =>
    obtain ⟨v, hv⟩ := processorStep_next s
    rw [processorSteps_of_next hv] at steps ⊢
    exact ih steps

/-! ### The command at an index -/

/-- A slot has the command that its 16 bytes decode to (R118). -/
theorem commandAt_eq_some {s : State} {i : Word} {c : Instr} (h : commandAt s i = some c) :
    ∃ bytes, s.memRead (commandSlot s.cq (i &&& s.cq.mask)) 16 = some bytes ∧ decode bytes = .ok c := by
  unfold commandAt at h
  split at h
  next bytes read =>
    split at h
    next decoded =>
      cases h
      exact ⟨bytes, read, decoded⟩
    next => cases h
  next => cases h

/-- Indices that the mask makes equal name one slot (R24). -/
theorem commandAt_congr (s : State) {i j : Word} (h : i &&& s.cq.mask = j &&& s.cq.mask) :
    commandAt s i = commandAt s j := by
  rw [commandAt, commandAt, h]

/-- A command that stores nothing completes, with the cache changed at most (R283, R293 to R302). -/
theorem exec_of_storeAddress_none {c : Instr} (h : storeAddress c = none) (s : State) :
    ∃ das, exec c s = .next { headAdvanced s with das := das } := by
  obtain ⟨t, ht⟩ := exec_next c s
  rcases exec_cases ht with rfl | ⟨_, _, _, -, rfl⟩ | ⟨_, _, _, _, _, rfl, -, -⟩ | ⟨_, _, _, _, _, rfl, -, -⟩
  · exact ⟨_, ht⟩
  · exact ⟨_, ht⟩
  · cases h
  · cases h

/-! ### A pass with commands left -/

theorem headIndex_and_mask (s : State) : headIndex s &&& s.cq.mask = headIndex s := by
  rw [headIndex, BitVec.and_assoc, BitVec.and_self]

theorem headIndex_headAdvanced {s : State} (h : s.cq.Shaped) :
    headIndex (headAdvanced s) = (headIndex s + 1) &&& s.cq.mask := by
  have small : (headIndex s + 1 &&& s.cq.mask).toNat < 2 ^ 32 := Nat.lt_of_lt_of_le (h.and_mask_lt _) h.size_le
  have fits : ((headIndex s + 1 &&& s.cq.mask).setWidth 32).setWidth 64 = headIndex s + 1 &&& s.cq.mask := by
    apply BitVec.eq_of_toNat_eq
    rw [BitVec.toNat_setWidth, BitVec.toNat_setWidth]
    omega
  change ((headIndex s + 1 &&& s.cq.mask).setWidth 32).setWidth 64 &&& s.cq.mask = _
  rw [fits, BitVec.and_assoc, BitVec.and_self]

/-- `n + 1` slots after the head are `n` slots after the next one (R24). -/
theorem headIndex_headAdvanced_add {s : State} (h : s.cq.Shaped) (n : Nat) :
    (headIndex (headAdvanced s) + BitVec.ofNat 64 n) &&& s.cq.mask =
      (headIndex s + BitVec.ofNat 64 (n + 1)) &&& s.cq.mask := by
  rw [headIndex_headAdvanced h, h.and_mask_add_and_mask, BitVec.add_assoc, Nat.add_comm n 1, BitVec.ofNat_add]
  rfl

/-- A pass is under way with `n` commands left between head and tail, all of which decode and store nothing. -/
structure State.CommandsLeft (s : State) (n : Nat) : Prop where
  draining : s.cqDraining = true
  shaped : s.cq.Shaped
  short : n < s.cq.size
  tail : tailIndex s = (headIndex s + BitVec.ofNat 64 n) &&& s.cq.mask
  commands : ∀ j < n, ∃ c, commandAt s (headIndex s + BitVec.ofNat 64 j) = some c ∧ storeAddress c = none

/-- With no command left, head equals tail (R281). -/
theorem State.CommandsLeft.head_eq_tail {s : State} (h : s.CommandsLeft 0) : headIndex s = tailIndex s := by
  have last := h.tail
  rwa [BitVec.add_zero, headIndex_and_mask, eq_comm] at last

/-- With a command left, head and tail differ: fewer are left than the queue has slots (R281). -/
theorem State.CommandsLeft.head_ne_tail {s : State} {n : Nat} (h : s.CommandsLeft (n + 1)) :
    headIndex s ≠ tailIndex s := by
  intro same
  have size : s.cq.size ≤ 2 ^ 32 := h.shaped.size_le
  have short : n + 1 < s.cq.size := h.short
  have count : (BitVec.ofNat 64 (n + 1)).toNat = n + 1 := by
    rw [BitVec.toNat_ofNat]
    omega
  have wrapped : (headIndex s).toNat = ((headIndex s).toNat + (n + 1)) % s.cq.size := by
    have tail := congrArg BitVec.toNat (same.trans h.tail)
    rwa [h.shaped.toNat_and_mask, BitVec.toNat_add, Nat.mod_mod_of_dvd _ h.shaped.size_dvd, count] at tail
  have below : (headIndex s).toNat < s.cq.size := h.shaped.and_mask_lt _
  have round : (headIndex s).toNat + 0 ≡ (headIndex s).toNat + (n + 1) [MOD s.cq.size] := by
    rw [Nat.ModEq, Nat.add_zero, Nat.mod_eq_of_lt below]
    exact wrapped
  have divides : s.cq.size ∣ n + 1 := (Nat.modEq_zero_iff_dvd).mp (Nat.ModEq.add_left_cancel' _ round).symm
  exact absurd (Nat.le_of_dvd (Nat.succ_pos n) divides) (Nat.not_le_of_lt short)

/-- A step runs the command at the head, and one fewer is left (R281, R283). -/
theorem State.CommandsLeft.processorStep {s : State} {n : Nat} (h : s.CommandsLeft (n + 1)) :
    ∃ das, s.processorStep = .next { headAdvanced s with das := das } ∧
      ({ headAdvanced s with das := das } : State).CommandsLeft n := by
  obtain ⟨c, hc, hstore⟩ := h.commands 0 (Nat.succ_pos n)
  obtain ⟨bytes, read, decoded⟩ := commandAt_eq_some hc
  rw [BitVec.add_zero, headIndex_and_mask] at read
  obtain ⟨das, hexec⟩ := exec_of_storeAddress_none hstore s
  have drain : s.processorStep = exec c s :=
    (processorStep_of_draining h.draining).trans (drainStep_of_decode_ok h.head_ne_tail read decoded)
  refine ⟨das, drain.trans hexec, ?_⟩
  exact {
    draining := h.draining
    shaped := h.shaped.congr rfl rfl rfl rfl
    short := Nat.lt_of_succ_lt h.short
    tail := h.tail.trans (headIndex_headAdvanced_add h.shaped n).symm
    commands := fun j hj => by
      obtain ⟨c', hc', hstore'⟩ := h.commands (j + 1) (Nat.succ_lt_succ hj)
      exact ⟨c', (commandAt_congr s (headIndex_headAdvanced_add h.shaped j)).trans hc', hstore'⟩ }

/-- What the commands of a pass that store nothing keep. -/
structure State.SameQueue (s t : State) : Prop where
  cq : t.cq = { s.cq with qh := t.cq.qh }
  mem : t.mem = s.mem

theorem State.SameQueue.trans {s t u : State} (h : s.SameQueue t) (k : t.SameQueue u) : s.SameQueue u where
  cq := by rw [k.cq, h.cq]
  mem := k.mem.trans h.mem

theorem State.SameQueue.tailIndex {s t : State} (h : s.SameQueue t) : tailIndex t = tailIndex s := by
  rw [Claims.tailIndex, h.cq]
  rfl

theorem State.SameQueue.csr {s t : State} (h : s.SameQueue t) : t.cq.csr = s.cq.csr := by rw [h.cq]

theorem endDrain_sameQueue (s : State) : s.SameQueue s.endDrain where
  cq := by rw [State.endDrain_cq]
  mem := s.endDrain_mem

/-- Each step of a pass runs one of the commands left. -/
theorem State.CommandsLeft.processorSteps {s : State} {m r : Nat} (h : s.CommandsLeft (r + m)) :
    ∃ t, processorSteps m s = some t ∧ t.CommandsLeft r ∧ s.SameQueue t := by
  induction m generalizing s with
  | zero => exact ⟨s, rfl, h, ⟨rfl, rfl⟩⟩
  | succ m ih =>
    obtain ⟨das, first, left⟩ := h.processorStep
    obtain ⟨t, steps, rest, same⟩ := ih left
    have advanced : s.SameQueue { headAdvanced s with das := das } := ⟨rfl, rfl⟩
    exact ⟨t, (processorSteps_of_next first m).trans steps, rest, advanced.trans same⟩

/-- After its last command a pass takes one step more, to end with head equal to tail (R281, R285). -/
theorem State.CommandsLeft.processorSteps_end {s : State} {n : Nat} (h : s.CommandsLeft n) :
    ∃ t, Claims.processorSteps (n + 1) s = some t ∧ t.cqDraining = false ∧ headIndex t = Claims.tailIndex t ∧
      s.SameQueue t := by
  obtain ⟨t, steps, done, same⟩ := State.CommandsLeft.processorSteps (m := n) (r := 0) (by rwa [Nat.zero_add])
  have last : t.processorStep = .next t.endDrain :=
    (processorStep_of_draining done.draining).trans (drainStep_of_empty done.head_eq_tail)
  refine ⟨t.endDrain, processorSteps_succ steps last, t.endDrain_cqDraining, ?_, same.trans (endDrain_sameQueue t)⟩
  rw [headIndex, Claims.tailIndex, State.endDrain_cq]
  exact done.head_eq_tail

/-- A doorbell on an active queue without fault or error starts a pass over the commands between head and tail (R279). -/
theorem commandsLeft_startDrain {s : State} {n : Nat} (shaped : s.cq.Shaped) (allowed : drainAllowed s.cq.csr = true)
    (count : ((tailIndex s - headIndex s) &&& s.cq.mask).toNat = n)
    (commands : ∀ j < n, ∃ c, commandAt s (headIndex s + BitVec.ofNat 64 j) = some c ∧ storeAddress c = none) :
    s.startDrain.CommandsLeft n where
  draining := by rw [State.startDrain_cqDraining, allowed, Bool.true_or]
  shaped := shaped
  short := count ▸ shaped.and_mask_lt _
  tail := by
    have distance : BitVec.ofNat 64 n = (tailIndex s - headIndex s) &&& s.cq.mask := by
      rw [← count, BitVec.ofNat_toNat, BitVec.setWidth_eq]
    change tailIndex s = (headIndex s + BitVec.ofNat 64 n) &&& s.cq.mask
    rw [distance, BitVec.add_comm, shaped.and_mask_add_and_mask, BitVec.sub_add_cancel, tailIndex, BitVec.and_assoc,
      BitVec.and_self]
  commands := commands

end Sys2Proof.Machine

namespace Sys2Proof.Proofs

open Sys2Proof.Machine Sys2Proof.Claims

/-- Settles O14: one step starts the pass, each further one runs a command, and the last finds head equal to tail. -/
theorem drainPassTakesNPlusTwoSteps : Obligations.DrainPassTakesNPlusTwoSteps := by
  unfold Obligations.DrainPassTakesNPlusTwoSteps
  intro s n shaped idle rung active fault error count commands
  have allowed : drainAllowed s.cq.csr = true := by rw [drainAllowed_eq, active, fault, error]; rfl
  have left : s.startDrain.CommandsLeft n := commandsLeft_startDrain shaped allowed count commands
  have start : s.processorStep = .next s.startDrain := processorStep_of_doorbell idle rung
  refine ⟨?_, fun m hm hmn => ?_⟩
  · obtain ⟨t, steps, ended, empty, same⟩ := left.processorSteps_end
    have tail : tailIndex t = tailIndex s := same.tailIndex
    exact ⟨t, (processorSteps_of_next start _).trans steps, ended, empty.trans tail, tail, same.csr, same.mem⟩
  · obtain ⟨k, rfl⟩ : ∃ k, m = k + 1 := ⟨m - 1, by omega⟩
    obtain ⟨t, steps, run, -⟩ := State.CommandsLeft.processorSteps (s := s.startDrain) (m := k) (r := n - k)
      (by rwa [Nat.sub_add_cancel (by omega)])
    exact ⟨t, (processorSteps_of_next start k).trans steps, run.draining⟩

end Sys2Proof.Proofs
end

section
/-! The fault writer: what a report does in each state of its queue, the dwords of a record in its slot, and how many
records a queue takes (R320 to R332). -/

namespace Sys2Proof.Machine

open Claims

/-! ### Reads inside a read -/

theorem take_readBytes (m : Memory) (a : Word) {k n : Nat} (h : k ≤ n) :
    (readBytes m a n).take k = readBytes m a k := by
  induction k generalizing a n with
  | zero => rfl
  | succ k ih =>
    obtain ⟨n, rfl⟩ : ∃ j, n = j + 1 := ⟨n - 1, by omega⟩
    rw [readBytes, readBytes, List.take_succ_cons, ih _ (by omega)]

theorem drop_readBytes (m : Memory) (a : Word) (k n : Nat) :
    (readBytes m a (k + n)).drop k = readBytes m (a + BitVec.ofNat 64 k) n := by
  induction k generalizing a with
  | zero => simp
  | succ k ih =>
    rw [Nat.add_right_comm, readBytes, List.drop_succ_cons, ih, BitVec.add_assoc, Nat.add_comm k 1, BitVec.ofNat_add]
    rfl

/-- The word at offset `k` of a longer read (R71). -/
theorem wordOf_readBytes_add (m : Memory) (a : Word) {k n : Nat} (h : k + 8 ≤ n) :
    wordOf (readBytes m (a + BitVec.ofNat 64 k) 8) = wordOf ((readBytes m a n).drop k) := by
  obtain ⟨j, rfl⟩ : ∃ j, n = k + j := ⟨n - k, by omega⟩
  rw [drop_readBytes, wordOf, wordOf, take_readBytes _ _ (Nat.le_refl 8), take_readBytes _ _ (by omega)]

/-- The four dwords of a fault record (R132, R326). -/
theorem wordOf_drop_faultRecord (did : Word) (c : Cause) (ttyp : BitVec 6) (iova phys : Word) :
    wordOf ((faultRecord did c ttyp iova phys).drop 0) = faultReason did c ttyp ∧
      wordOf ((faultRecord did c ttyp iova phys).drop 8) = 0 ∧
      wordOf ((faultRecord did c ttyp iova phys).drop 16) = iova ∧
      wordOf ((faultRecord did c ttyp iova phys).drop 24) = phys := by
  have skip (v : Nat) (bs : List Byte) (k : Nat) : (leBytes 8 v ++ bs).drop (8 + k) = bs.drop k := by
    rw [← List.drop_drop, List.drop_left' (leBytes_length 8 v)]
  simp only [faultRecord, List.append_assoc]
  refine ⟨wordOf_leBytes _ _, ?_, ?_, ?_⟩
  · rw [skip _ _ 0]
    exact wordOf_leBytes 0 _
  · rw [skip _ _ 8, skip _ _ 0]
    exact wordOf_leBytes _ _
  · rw [skip _ _ 16, skip _ _ 8, skip _ _ 0]
    simpa using wordOf_leBytes phys []

/-! ### The outcomes of a report -/

theorem recordAllowed_eq_false_iff (csr : Reg32) :
    recordAllowed csr = false ↔ csr.getLsbD 16 = false ∨ csr.getLsbD 8 = true ∨ csr.getLsbD 9 = true := by
  simp only [recordAllowed, bit, Bool.and_eq_false_iff, Bool.not_eq_false', or_assoc]

section
variable {s : State} (did : Word) (c : Cause) (ttyp : BitVec 6) (iova phys : Word)

/-- An inactive queue, or one with FQ_FAULT or FQ_FULL set, drops the report (R320). -/
theorem report_of_not_allowed (closed : recordAllowed s.fq.csr = false) : s.report did c ttyp iova phys = s := by
  rw [State.report, closed]
  rfl

/-- A full ring sets FQ_FULL (R321, R322). -/
theorem report_of_full (allowed : recordAllowed s.fq.csr = true) (full : s.fq.next s.fq.tail = s.fq.head) :
    s.report did c ttyp iova phys = fqStatusSet s 0x200 := by
  rw [State.report, allowed, if_neg (by decide), if_pos full]
  rfl

/-- A report on an open queue with room, whose write the host takes (R323 to R325). -/
theorem report_of_writable (allowed : recordAllowed s.fq.csr = true) (room : s.fq.next s.fq.tail ≠ s.fq.head)
    (taken : s.writable (recordSlot s.fq s.fq.tail) 32 = true) :
    s.report did c ttyp iova phys =
      (s.store (recordSlot s.fq s.fq.tail) (faultRecord did c ttyp iova phys)).recordWritten := by
  rw [State.report, allowed, if_neg (by decide), if_neg room, if_pos taken]

end

/-- A stored record: memory, the tail and, with IRQ_ENABLE, FIP and the notification of FIV (R324, R325, R382). -/
theorem recordWritten_store (s : State) (a : Word) (bs : List Byte) :
    (s.store a bs).recordWritten =
      { s with
        fq := { s.fq with qt := (((s.fq.qt.setWidth 64 &&& s.fq.mask) + 1) &&& s.fq.mask).setWidth 32 }
        ipsr := if s.fq.csr.getLsbD 1 then s.ipsr ||| 2 else s.ipsr
        outbox :=
          (if s.fq.csr.getLsbD 1 then notification s s.fq.armed (s.icvec.extractLsb' 4 4).toNat else []) ++ s.outbox
        mem := (s.store a bs).recordWritten.mem } := by
  rw [State.recordWritten_mem]
  exact State.recordWritten_eq _

/-- A stored record is read back (R71, R323). -/
theorem readBytes_storedRecord {s : State} (hwf : s.mem.wf) (a : Word) (did : Word) (c : Cause) (ttyp : BitVec 6)
    (iova phys : Word) :
    readBytes (s.store a (faultRecord did c ttyp iova phys)).mem a 32 = faultRecord did c ttyp iova phys := by
  have back := readBytes_writeBytes s.mem a (faultRecord did c ttyp iova phys) hwf (by simp)
  rw [faultRecord_length] at back
  rw [State.store_mem, back]

/-- Where a record stands, so do its four dwords (R132). -/
theorem wordOf_readBytes_of_record {m : Memory} {a did : Word} {c : Cause} {ttyp : BitVec 6} {iova phys : Word}
    (stored : readBytes m a 32 = faultRecord did c ttyp iova phys) :
    wordOf (readBytes m a 8) = faultReason did c ttyp ∧ wordOf (readBytes m (a + 8) 8) = 0 ∧
      wordOf (readBytes m (a + 16) 8) = iova ∧ wordOf (readBytes m (a + 24) 8) = phys := by
  have dword {k : Nat} (h : k + 8 ≤ 32) :
      wordOf (readBytes m (a + BitVec.ofNat 64 k) 8) = wordOf ((faultRecord did c ttyp iova phys).drop k) := by
    rw [wordOf_readBytes_add m a h, stored]
  have first := dword (k := 0) (by decide)
  rw [BitVec.add_zero] at first
  obtain ⟨reason, zero, address, physical⟩ := wordOf_drop_faultRecord did c ttyp iova phys
  exact ⟨first.trans reason, (dword (k := 8) (by decide)).trans zero, (dword (k := 16) (by decide)).trans address,
    (dword (k := 24) (by decide)).trans physical⟩

/-! ### The tail after several reports -/

/-- `n` slots on from an index is that index again exactly when the size divides `n` (R24, R32). -/
theorem Queue.Shaped.add_and_mask_eq_iff {q : Queue} (h : q.Shaped) (i : Word) (n : Nat) :
    (i + BitVec.ofNat 64 n) &&& q.mask = i &&& q.mask ↔ q.size ∣ n := by
  rw [BitVec.toNat_eq, h.toNat_and_mask, h.toNat_and_mask, BitVec.toNat_add, BitVec.toNat_ofNat, Nat.add_mod_mod,
    Nat.mod_mod_of_dvd _ h.size_dvd]
  exact Nat.add_modEq_left_iff

/-- An advanced tail is read back whole from its 32-bit register (R31, R324, log 18). -/
theorem Queue.Shaped.tail_next {q : Queue} (h : q.Shaped) (i : Word) :
    ({ q with qt := (q.next i).setWidth 32 } : Queue).tail = q.next i := by
  have fits : ((q.next i).setWidth 32).setWidth 64 = q.next i := by
    have small : (q.next i).toNat < 2 ^ 32 := Nat.lt_of_lt_of_le (h.and_mask_lt _) h.size_le
    apply BitVec.eq_of_toNat_eq
    rw [BitVec.toNat_setWidth, BitVec.toNat_setWidth]
    omega
  rw [Queue.tail, fits, Queue.next, BitVec.and_assoc, BitVec.and_self]

/-- `n + 1` reports are `n` reports and then one more. -/
theorem reports_succ (did : Word) (c : Cause) (ttyp : BitVec 6) (iova phys : Word) (n : Nat) (s : State) :
    reports did c ttyp iova phys (n + 1) s = (reports did c ttyp iova phys n s).report did c ttyp iova phys := by
  induction n generalizing s with
  | zero => rfl
  | succ n ih => exact ih _

/-- `t` is `s` with `n` more records in the fault queue: of the queue the tail alone has moved, by `n` slots. -/
structure State.Recorded (s : State) (n : Nat) (t : State) : Prop where
  queue : t.fq = { s.fq with qt := t.fq.qt }
  noWrite : t.noWrite = s.noWrite
  tail : t.fq.tail = (s.fq.qt.setWidth 64 + BitVec.ofNat 64 n) &&& s.fq.mask

theorem State.Recorded.csr {s t : State} {n : Nat} (h : s.Recorded n t) : t.fq.csr = s.fq.csr := by rw [h.queue]

theorem State.Recorded.mask {s t : State} {n : Nat} (h : s.Recorded n t) : t.fq.mask = s.fq.mask := by rw [h.queue]

theorem State.Recorded.head {s t : State} {n : Nat} (h : s.Recorded n t) : t.fq.head = s.fq.head := by
  rw [h.queue]
  rfl

/-- The slot after the tail, `n` records on (R321). -/
theorem State.Recorded.next_tail {s t : State} {n : Nat} (h : s.Recorded n t) (shaped : s.fq.Shaped) :
    t.fq.next t.fq.tail = (s.fq.qt.setWidth 64 + BitVec.ofNat 64 (n + 1)) &&& s.fq.mask := by
  rw [Queue.next, h.mask, h.tail, shaped.and_mask_add_and_mask, BitVec.ofNat_add, ← BitVec.add_assoc]
  rfl

/-- From an empty ring on, the ring is full exactly when the size divides the records and the free slot together (R322,
R331). -/
theorem State.Recorded.full_iff {s t : State} {n : Nat} (h : s.Recorded n t) (shaped : s.fq.Shaped)
    (empty : s.fq.tail = s.fq.head) : t.fq.next t.fq.tail = t.fq.head ↔ s.fq.size ∣ n + 1 := by
  rw [h.next_tail shaped, h.head, ← empty]
  exact shaped.add_and_mask_eq_iff _ _

/-- A report on a ring with room whose write the host takes adds a record (R323, R324). -/
theorem State.Recorded.report {s t : State} {n : Nat} (h : s.Recorded n t) (shaped : s.fq.Shaped)
    (allowed : recordAllowed t.fq.csr = true) (room : t.fq.next t.fq.tail ≠ t.fq.head)
    (taken : t.writable (recordSlot t.fq t.fq.tail) 32 = true)
    (did : Word) (c : Cause) (ttyp : BitVec 6) (iova phys : Word) :
    s.Recorded (n + 1) (t.report did c ttyp iova phys) := by
  have shaped' : t.fq.Shaped := by
    rw [h.queue]
    exact shaped.congr rfl rfl rfl rfl
  have queue : (t.report did c ttyp iova phys).fq = { t.fq with qt := (t.fq.next t.fq.tail).setWidth 32 } := by
    rw [report_of_writable did c ttyp iova phys allowed room taken, State.recordWritten_fq, State.store_fq]
  exact {
    queue := by rw [queue, h.queue]
    noWrite := by rw [State.report_noWrite, h.noWrite]
    tail := by rw [queue, shaped'.tail_next, h.next_tail shaped] }

/-- An open, empty queue takes as many records as its mask says while the host takes every write (R331). -/
theorem reports_recorded {s : State} (shaped : s.fq.Shaped) (taken : s.noWrite = [])
    (allowed : recordAllowed s.fq.csr = true) (empty : s.fq.tail = s.fq.head)
    (did : Word) (c : Cause) (ttyp : BitVec 6) (iova phys : Word) {n : Nat} (hn : n ≤ s.fq.mask.toNat) :
    s.Recorded n (reports did c ttyp iova phys n s) := by
  induction n with
  | zero => exact ⟨rfl, rfl, by rw [reports, Queue.tail, BitVec.add_zero]⟩
  | succ n ih =>
    have before := ih (by omega)
    have few : ¬ s.fq.size ∣ n + 1 := Nat.not_dvd_of_pos_of_lt n.succ_pos (by rw [Queue.size]; omega)
    rw [reports_succ]
    refine before.report shaped ?_ ?_ ?_ did c ttyp iova phys
    · rwa [before.csr]
    · rwa [Ne, before.full_iff shaped empty]
    · rw [State.writable, before.noWrite, taken, touches_nil]
      rfl

end Sys2Proof.Machine

namespace Sys2Proof.Proofs

open Sys2Proof.Machine Sys2Proof.Claims

/-- Settles O36, by the two outcomes of a report that write no record. -/
theorem reportIsDroppedWhenClosedOrFull : Obligations.ReportIsDroppedWhenClosedOrFull := by
  unfold Obligations.ReportIsDroppedWhenClosedOrFull
  intro s did c ttyp iova phys
  refine ⟨fun closed => ?_, fun active fault full ring => ?_⟩
  · exact report_of_not_allowed did c ttyp iova phys ((recordAllowed_eq_false_iff _).mpr closed)
  · exact report_of_full did c ttyp iova phys ((recordAllowed_iff _).mpr ⟨active, fault, full⟩) ring

/-- Settles O38: the stored record is read back dword by dword, and what follows the store leaves memory alone. -/
theorem reportWritesTheRecord : Obligations.ReportWritesTheRecord := by
  unfold Obligations.ReportWritesTheRecord
  intro s did c ttyp iova phys hwf active fault full room htouch
  have allowed : recordAllowed s.fq.csr = true := (recordAllowed_iff _).mpr ⟨active, fault, full⟩
  have taken : s.writable (recordSlot s.fq s.fq.tail) 32 = true := congrArg not htouch
  intro slot t
  have report : t = (s.store slot (faultRecord did c ttyp iova phys)).recordWritten :=
    report_of_writable did c ttyp iova phys allowed room taken
  have mem : t.mem = (s.store slot (faultRecord did c ttyp iova phys)).mem := by rw [report, State.recordWritten_mem]
  have stored : readBytes t.mem slot 32 = faultRecord did c ttyp iova phys := by
    rw [mem]
    exact readBytes_storedRecord hwf slot did c ttyp iova phys
  obtain ⟨reason, zero, address, physical⟩ := wordOf_readBytes_of_record stored
  refine ⟨?_, reason, zero, address, physical, fun x hx => ?_⟩
  · rw [report]
    exact recordWritten_store s slot _
  · rw [mem]
    exact readByte_store_outside s (by rwa [faultRecord_length])

/-- Settles O39: from an empty ring every report up to the mask adds a record, and then the slot after the tail is the
head. -/
theorem faultQueueHoldsMaskRecords : Obligations.FaultQueueHoldsMaskRecords := by
  unfold Obligations.FaultQueueHoldsMaskRecords
  intro s did c ttyp iova phys shaped taken active fault full empty
  have allowed : recordAllowed s.fq.csr = true := (recordAllowed_iff _).mpr ⟨active, fault, full⟩
  have recorded {n : Nat} (hn : n ≤ s.fq.mask.toNat) : s.Recorded n (reports did c ttyp iova phys n s) :=
    reports_recorded shaped taken allowed empty did c ttyp iova phys hn
  have last := recorded (Nat.le_refl _)
  have ring := (last.full_iff shaped empty).mpr (Nat.dvd_refl _)
  refine ⟨fun n hn => ⟨(recorded hn).csr, ?_⟩, ?_⟩
  · rw [← (recorded hn).tail, Queue.tail, (recorded hn).mask]
  · rw [reports_succ, report_of_full did c ttyp iova phys (by rwa [last.csr]) ring, fqStatusSet, last.csr]

end Sys2Proof.Proofs
end

section
/-! The frame of a translation's steps: what a step may change, and what of the state it does not look at (R349, R351,
R415). -/

namespace Sys2Proof.Machine

open Claims

/-! ### What a step changes -/

/-- A report changes FQT, one of the two status bits of FQCSR, FIP, and the bytes of the slot at the tail (R320 to
R325). -/
structure State.Reported (s t : State) : Prop where
  eq : t = { s with
    fq := { s.fq with qt := t.fq.qt, csr := t.fq.csr }
    ipsr := t.ipsr
    mem := t.mem
    draws := t.draws
    outbox := t.outbox }
  csr : t.fq.csr = s.fq.csr ∨ t.fq.csr = s.fq.csr ||| 0x100 ∨ t.fq.csr = s.fq.csr ||| 0x200
  ipsr : t.ipsr = s.ipsr ∨ t.ipsr = s.ipsr ||| 2
  mem : ∀ x, OutsideBytes (recordSlot s.fq s.fq.tail) 32 x → readByte t.mem x = readByte s.mem x

theorem State.Reported.refl (s : State) : s.Reported s := ⟨rfl, .inl rfl, .inl rfl, fun _ _ => rfl⟩

theorem report_reported (s : State) (did : Word) (c : Cause) (ttyp : BitVec 6) (iova phys : Word) :
    s.Reported (s.report did c ttyp iova phys) := by
  rcases s.report_cases did c ttyp iova phys with ⟨-, e⟩ | ⟨-, -, e⟩ | ⟨-, -, -, e⟩ | ⟨-, -, -, e⟩ <;> rw [e]
  · exact .refl s
  · exact ⟨rfl, .inr (.inr rfl), .inl rfl, fun _ _ => rfl⟩
  · have kept (x : Word) (hx : OutsideBytes (recordSlot s.fq s.fq.tail) 32 x) := readByte_failedStore_outside s hx
    rw [setFqStatus_failedStore]
    generalize (s.failedStore (recordSlot s.fq s.fq.tail) 32).mem = mem at kept ⊢
    exact ⟨rfl, .inr (.inl rfl), .inl rfl, kept⟩
  · have kept (x : Word) (hx : OutsideBytes (recordSlot s.fq s.fq.tail) 32 x) :=
      readByte_store_outside s (bs := faultRecord did c ttyp iova phys) (by rwa [faultRecord_length])
    rw [recordWritten_store, State.recordWritten_mem]
    generalize (s.store (recordSlot s.fq s.fq.tail) (faultRecord did c ttyp iova phys)).mem = mem at kept ⊢
    refine ⟨rfl, .inl rfl, ?_, kept⟩
    dsimp only
    split
    · exact .inr rfl
    · exact .inl rfl

/-- A flight's step is the step of a report, beside the cache and the model's records of the requests (R349, R351). -/
theorem advance_reported (s : State) (tag : Nat) :
    ∃ u das flights out, s.Reported u ∧
      s.advance tag = { u with das := das, flights := flights, outbox := out } := by
  unfold State.advance
  split
  next f _ =>
    obtain ⟨u, flights, out, advanced, rfl | ⟨dc, rfl⟩ | ⟨c, phys, rfl⟩⟩ := advanceFlight_cases s f
    · exact ⟨u, _, _, _, .refl u, advanced⟩
    · exact ⟨s, _, _, _, .refl s, advanced⟩
    · exact ⟨_, _, _, _, report_reported .., advanced⟩
  next => exact ⟨s, _, _, _, .refl s, rfl⟩

/-- The frame of a request's first step (R349). -/
theorem beginTranslate_frame (s : State) (did iova : Word) (access : Access) :
    s.beginTranslate did iova access =
      { s with
        das := (s.beginTranslate did iova access).das
        flights := (s.beginTranslate did iova access).flights
        nextTag := s.nextTag + 1
        outbox := (s.beginTranslate did iova access).outbox } := by
  rw [beginTranslate_eq]
  rcases firstStep_cases s did iova access with h | h <;> rw [h] <;> split <;> rfl

/-! ### What a step does not look at -/

/-- `s` with the directory, the cache and the requests of `t`. -/
def State.carrying (s t : State) : State :=
  { s with
    ddtp := t.ddtp
    ddtMode := t.ddtMode
    ddtBase := t.ddtBase
    das := t.das
    flights := t.flights
    nextTag := t.nextTag }

@[simp] theorem State.carrying_cfg (s t : State) : (s.carrying t).cfg = s.cfg := rfl

@[simp] theorem State.carrying_flights (s t : State) : (s.carrying t).flights = t.flights := rfl

@[simp] theorem State.carrying_memRead (s t : State) (a : Word) (n : Nat) :
    (s.carrying t).memRead a n = s.memRead a n := rfl

@[simp] theorem State.carrying_memReadWord (s t : State) (a : Word) (n : Nat) :
    (s.carrying t).memReadWord a n = s.memReadWord a n := rfl

theorem State.store_carrying (s t : State) (a : Word) (bs : List Byte) :
    (s.carrying t).store a bs = (s.store a bs).carrying t := rfl

theorem State.failedStore_carrying (s t : State) (a : Word) (n : Nat) :
    (s.carrying t).failedStore a n = (s.failedStore a n).carrying t := rfl

theorem State.setFqStatus_carrying (s t : State) (i : Nat) :
    (s.carrying t).setFqStatus i = (s.setFqStatus i).carrying t := rfl

theorem State.recordWritten_carrying (s t : State) : (s.carrying t).recordWritten = s.recordWritten.carrying t := by
  rw [State.recordWritten_eq, State.recordWritten_eq]
  rfl

/-- A report looks at neither the directory, the cache nor the requests, and keeps them (R328). -/
theorem report_carrying (s t : State) (did : Word) (c : Cause) (ttyp : BitVec 6) (iova phys : Word) :
    (s.carrying t).report did c ttyp iova phys = (s.report did c ttyp iova phys).carrying t := by
  rcases s.report_cases did c ttyp iova phys with
    ⟨closed, e⟩ | ⟨allowed, full, e⟩ | ⟨allowed, room, failed, e⟩ | ⟨allowed, room, taken, e⟩ <;> rw [e]
  · exact report_of_not_allowed (s := s.carrying t) did c ttyp iova phys closed
  · exact report_of_full (s := s.carrying t) did c ttyp iova phys allowed full
  · rw [← State.setFqStatus_carrying, ← State.failedStore_carrying]
    exact report_of_not_writable (s := s.carrying t) allowed room failed did c ttyp iova phys
  · rw [← State.recordWritten_carrying, ← State.store_carrying]
    exact report_of_writable (s := s.carrying t) did c ttyp iova phys allowed room taken

/-- What a flight's next step makes of a cache: the fill writes its entry, every other step keeps it (R342). -/
def Flight.filled (f : Flight) (c : DasCache) : DasCache :=
  match f.phase with
  | .fill dc => c.put { did := f.did, dc := dc, valid := true }
  | .dirRead _ _ => c
  | .pteRead _ _ => c
  | .report _ _ => c

/-- A flight's step looks at neither the directory, the cache nor the requests, and changes of them the cache alone: it
uses the mode and base that the flight sampled (R349). -/
theorem flightStep_carrying (s t : State) (f : Flight) :
    (s.carrying t).flightStep f =
      ((s.flightStep f).1, (s.flightStep f).2.carrying { t with das := f.filled t.das }) := by
  obtain ⟨tag, did, iova, access, mode, root, phase⟩ := f
  cases phase with
  | dirRead level base =>
    cases level with
    | zero =>
      simp only [State.flightStep, State.carrying_cfg, State.carrying_memRead]
      generalize checkDeviceContext _ = loaded
      cases loaded <;> rfl
    | succ level =>
      simp only [State.flightStep, State.carrying_cfg, State.carrying_memReadWord]
      generalize checkDirectoryEntry _ = loaded
      cases loaded <;> rfl
  | fill dc => rfl
  | pteRead dc pass => rfl
  | report c phys => exact congrArg (Prod.mk _) (report_carrying s t ..)

/-- A flight's step keeps the directory and the requests, and makes of the cache what its phase makes of it (R349). -/
theorem flightStep_eq_carrying (s : State) (f : Flight) :
    (s.flightStep f).2 = (s.flightStep f).2.carrying { s with das := f.filled s.das } :=
  congrArg Prod.snd (flightStep_carrying s s f)

@[simp] theorem flightStep_flights (s : State) (f : Flight) : (s.flightStep f).2.flights = s.flights := by
  rw [flightStep_eq_carrying]
  rfl

@[simp] theorem flightStep_nextTag (s : State) (f : Flight) : (s.flightStep f).2.nextTag = s.nextTag := by
  rw [flightStep_eq_carrying]
  rfl

/-- What the next step of the flight with a tag makes of a cache. -/
def filledBy (fs : List Flight) (tag : Nat) (c : DasCache) : DasCache :=
  match findFlight fs tag with
  | some f => f.filled c
  | none => c

/-- A translation's next step does not look at the directory or the cache, and changes of them the cache alone
(R349). -/
theorem advance_carrying {s t : State} (same : t.flights = s.flights) (tag : Nat) :
    (s.carrying t).advance tag =
      (s.advance tag).carrying
        { t with das := filledBy s.flights tag t.das, flights := (s.advance tag).flights } := by
  have flights : (s.carrying t).flights = s.flights := same
  unfold State.advance filledBy
  rw [flights]
  cases findFlight s.flights tag with
  | none =>
    simp only [← same]
  | some f =>
    simp only [advanceFlight_eq, flightStep_carrying]
    have kept : ((s.flightStep f).2.carrying { t with das := f.filled t.das }).flights = (s.flightStep f).2.flights :=
      same.trans (flightStep_flights s f).symm
    cases (s.flightStep f).1 with
    | wait p =>
      simp only [kept]
      rfl
    | answer r =>
      simp only [kept]
      rfl

/-- A translation's next step keeps the directory (R349). -/
theorem advance_eq_carrying (s : State) (tag : Nat) :
    s.advance tag =
      (s.advance tag).carrying
        { s with das := filledBy s.flights tag s.das, flights := (s.advance tag).flights } :=
  advance_carrying (s := s) (t := s) rfl tag

/-- A DDTP step changes the directory and the cache alone (R290). -/
theorem ddtpStep_eq_carrying (s : State) : s.ddtpStep = s.carrying s.ddtpStep := by
  rcases ddtpStep_cases s with ⟨m, -, e⟩ | e <;> rw [e] <;> rfl

end Sys2Proof.Machine

namespace Sys2Proof.Proofs

open Sys2Proof.Machine Sys2Proof.Claims

/-- Settles O51: the first step touches the cache at most, and of the later ones only the report reaches further. -/
theorem translationFrame : Obligations.TranslationFrame := by
  unfold Obligations.TranslationFrame
  intro s did iova access tag
  refine ⟨beginTranslate_frame s did iova access, ?_⟩
  obtain ⟨u, das, flights, out, reported, advanced⟩ := advance_reported s tag
  rw [advanced]
  refine ⟨?_, reported.csr, reported.ipsr, reported.mem⟩
  conv_lhs => rw [reported.eq]

/-- Settles O52: a flight's step looks at neither the directory nor the cache, and a DDTP step changes nothing else. -/
theorem directoryChangeDoesNotDisturbAFlight : Obligations.DirectoryChangeDoesNotDisturbAFlight := by
  unfold Obligations.DirectoryChangeDoesNotDisturbAFlight
  intro s tag
  constructor
  · intro mode base
    have changed := advance_carrying (s := s) (t := { s with ddtMode := mode, ddtBase := base }) rfl tag
    refine changed.trans ?_
    conv_rhs => rw [advance_eq_carrying]
    rfl
  · have flights : s.ddtpStep.flights = s.flights := by simp
    have changed := advance_carrying flights tag
    rw [← ddtpStep_eq_carrying] at changed
    have nextTag : s.ddtpStep.nextTag = s.nextTag := by simp
    conv_rhs => rw [advance_eq_carrying]
    simp only [changed, State.carrying, nextTag]

end Sys2Proof.Proofs
end

section
/-! The stepwise translation that no other agent disturbs, against the translation whole (R349, R350, R420). -/

namespace Sys2Proof.Machine

open Claims

/-! ### A request and where it stands -/

/-- What a device asks for (R137), with the directory mode and base that its translation sampled (R349). -/
structure Request where
  did : Word
  iova : Word
  access : Access
  mode : DdtMode
  root : Word

/-- The translation of a request in flight. -/
def Request.flight (q : Request) (tag : Nat) (p : Phase) : Flight := ⟨tag, q.did, q.iova, q.access, q.mode, q.root, p⟩

@[simp] theorem Request.flight_tag (q : Request) (tag : Nat) (p : Phase) : (q.flight tag p).tag = tag := rfl

/-- `s` with one more request, which has come to stand at `p`: in flight or answered (log 11). -/
def State.standing (s : State) (q : Request) : Progress → State
  | .wait p => { s with nextTag := s.nextTag + 1, flights := s.flights ++ [q.flight s.nextTag p] }
  | .answer r => { s with nextTag := s.nextTag + 1, outbox := .translated s.nextTag r :: s.outbox }

/-- The tag of the next request is not in flight. -/
def State.FreshTag (s : State) : Prop := ∀ f ∈ s.flights, f.tag < s.nextTag

theorem State.FreshTag.ne {s : State} (h : s.FreshTag) {f : Flight} (hf : f ∈ s.flights) : f.tag ≠ s.nextTag :=
  Nat.ne_of_lt (h f hf)

theorem State.FreshTag.flightStep {s : State} (h : s.FreshTag) (f : Flight) : (s.flightStep f).2.FreshTag := by
  simpa only [State.FreshTag, flightStep_flights, flightStep_nextTag] using h

theorem beginTranslate_eq_standing (s : State) (did iova : Word) (access : Access) :
    s.beginTranslate did iova access =
      (s.firstStep did iova access).2.standing ⟨did, iova, access, s.ddtMode, s.ddtBase⟩
        (s.firstStep did iova access).1 := by
  rw [beginTranslate_eq]
  rcases firstStep_cases s did iova access with h | h <;> rw [h] <;> split <;> simp only [*] <;> rfl

section
variable {fs : List Flight} {tag : Nat} (others : ∀ f ∈ fs, f.tag ≠ tag)
include others

theorem findFlight_of_ne : findFlight fs tag = none := by
  simpa [findFlight] using others

theorem findFlight_append_of_ne {f : Flight} (h : f.tag = tag) : findFlight (fs ++ [f]) tag = some f := by
  have none := findFlight_of_ne others
  rw [findFlight] at none ⊢
  simp [List.find?_append, none, h]

theorem setPhase_append_of_ne {f : Flight} (h : f.tag = tag) (p : Phase) :
    setPhase (fs ++ [f]) tag p = fs ++ [{ f with phase := p }] := by
  have kept : setPhase fs tag p = fs := by
    rw [setPhase, List.map_congr_left fun g hg => if_neg (others g hg), List.map_id']
  rw [setPhase] at kept ⊢
  simp [kept, h]

theorem dropFlight_append_of_ne {f : Flight} (h : f.tag = tag) : dropFlight (fs ++ [f]) tag = fs := by
  have kept : dropFlight fs tag = fs := List.filter_eq_self.mpr fun g hg => by simpa using others g hg
  rw [dropFlight] at kept ⊢
  rw [List.filter_append, kept]
  simp [h]

end

/-- The step of a request that waits is the step of its flight in the state without it. -/
theorem advance_standing_wait {s : State} (fresh : s.FreshTag) (q : Request) (p : Phase) :
    (s.standing q (.wait p)).advance s.nextTag =
      (s.flightStep (q.flight s.nextTag p)).2.standing q (s.flightStep (q.flight s.nextTag p)).1 := by
  have others : ∀ f ∈ s.flights, f.tag ≠ s.nextTag := fun f hf => fresh.ne hf
  have found : findFlight (s.standing q (.wait p)).flights s.nextTag = some (q.flight s.nextTag p) :=
    findFlight_append_of_ne others rfl
  have apart : (s.standing q (.wait p)).flightStep (q.flight s.nextTag p) = _ :=
    flightStep_carrying s (s.standing q (.wait p)) (q.flight s.nextTag p)
  have alone := flightStep_eq_carrying s (q.flight s.nextTag p)
  rw [State.advance, found]
  simp only [advanceFlight_eq, apart]
  rw [alone]
  cases (s.flightStep (q.flight s.nextTag p)).1 with
  | wait p' =>
    have moved : setPhase (s.standing q (.wait p)).flights s.nextTag p' = s.flights ++ [q.flight s.nextTag p'] :=
      setPhase_append_of_ne others rfl p'
    simp only [State.carrying_flights, Request.flight_tag, moved]
    rfl
  | answer r =>
    have dropped : dropFlight (s.standing q (.wait p)).flights s.nextTag = s.flights :=
      dropFlight_append_of_ne others rfl
    simp only [State.carrying_flights, Request.flight_tag, dropped]
    rfl

/-- A request that is answered has no step left. -/
theorem advance_standing_answer {s : State} (fresh : s.FreshTag) (q : Request) (r : TranslateResult) :
    (s.standing q (.answer r)).advance s.nextTag = s.standing q (.answer r) := by
  have gone : findFlight (s.standing q (.answer r)).flights s.nextTag = none :=
    findFlight_of_ne fun _ hf => fresh.ne hf
  rw [State.advance, gone]

/-- `Settles q tag n p s out`: the translation of `q`, standing at `p` in `s`, has within `n` more steps the result
`out.1`, and leaves the state `out.2`. -/
inductive Settles (q : Request) (tag : Nat) : Nat → Progress → State → TranslateResult × State → Prop
  | answer (n : Nat) (r : TranslateResult) (s : State) : Settles q tag n (.answer r) s (r, s)
  | step {n : Nat} {p : Phase} {s : State} {out : TranslateResult × State}
      (rest : Settles q tag n (s.flightStep (q.flight tag p)).1 (s.flightStep (q.flight tag p)).2 out) :
      Settles q tag (n + 1) (.wait p) s out

theorem Settles.mono {q : Request} {tag n m : Nat} {p : Progress} {s : State} {out : TranslateResult × State}
    (h : Settles q tag n p s out) (le : n ≤ m) : Settles q tag m p s out := by
  induction h generalizing m with
  | answer n r s => exact .answer m r s
  | step rest ih =>
    obtain ⟨m, rfl⟩ := Nat.exists_eq_add_of_lt le
    exact .step (ih (by omega))

theorem Settles.nextTag {q : Request} {tag n : Nat} {p : Progress} {s : State} {out : TranslateResult × State}
    (h : Settles q tag n p s out) : out.2.nextTag = s.nextTag := by
  induction h with
  | answer n r s => rfl
  | step rest ih => rw [ih, flightStep_nextTag]

/-- Advancing the request for the number of steps hands out the result and leaves the state. -/
theorem Settles.advances {q : Request} {tag n : Nat} {p : Progress} {s : State} {out : TranslateResult × State}
    (h : Settles q tag n p s out) (htag : tag = s.nextTag) (fresh : s.FreshTag) :
    advances tag n (s.standing q p) = out.2.standing q (.answer out.1) := by
  induction h with
  | answer n r s =>
    subst htag
    induction n with
    | zero => rfl
    | succ n ih => rw [Claims.advances, advance_standing_answer fresh, ih]
  | @step n p s out rest ih =>
    subst htag
    rw [Claims.advances, advance_standing_wait fresh]
    exact ih (flightStep_nextTag s _).symm (fresh.flightStep _)

/-! ### The first step -/

section
variable {s : State} {did iova : Word} {access : Access}

theorem firstStep_of_off (off : s.ddtMode = .off) :
    s.firstStep did iova access = (faultNoContext ⟨.dmaDisabled, 0⟩, s) := by
  rw [State.firstStep, off]

theorem firstStep_of_bare (bare : s.ddtMode = .bare) :
    s.firstStep did iova access = (.answer (granted iova iova (BitVec.allOnes 64) .rw), s) := by
  rw [State.firstStep, bare]

theorem firstStep_of_directory (directory : s.ddtMode.isDirectory = true) :
    s.firstStep did iova access = (s.lookup did iova access, s.touchCache did) := by
  unfold State.firstStep
  split <;> simp_all [DdtMode.isDirectory]

end

/-! ### Faults -/

theorem ttypOf_eq (access : Access) : ttypOf access = if access = .write ∨ access = .rw then 3 else 2 := by
  cases access <;> rfl

/-- A fault that is to be reported is reported in one step, and the access denied (R347, R348). -/
theorem settles_report (q : Request) (tag : Nat) (c : Cause) (phys : Word) (s : State) :
    Settles q tag 1 (.wait (.report c phys)) s
      (denied q.iova, s.report q.did c (ttypOf q.access) q.iova phys) :=
  .step (.answer 0 _ _)

end Sys2Proof.Machine

namespace Sys2Proof.Proofs

open Sys2Proof.Machine Sys2Proof.Claims

/-- Settles O40: BARE answers in the first step; OFF waits for one report, which does not look at the requests. -/
theorem offDeniesAndBarePasses : Obligations.OffDeniesAndBarePasses := by
  unfold Obligations.OffDeniesAndBarePasses
  intro s did iova access
  refine ⟨fun bare => ?_, fun off fresh => ?_⟩
  · rw [beginTranslate_eq_standing, firstStep_of_bare bare]
    rfl
  · have settled := (settles_report ⟨did, iova, access, s.ddtMode, s.ddtBase⟩ s.nextTag .dmaDisabled 0 s).advances
      rfl fresh
    rw [beginTranslate_eq_standing, firstStep_of_off off]
    refine settled.trans ?_
    simp only [ttypOf_eq, State.standing, State.report_nextTag]
    rfl

end Sys2Proof.Proofs
end

section
/-! The page-table walk one load at a time is the walk whole, and takes at most five loads in each stage (R215,
R420). -/

namespace Sys2Proof.Machine

/-- `WalksIn s gatp access n w result`: the walk that stands at `w` ends with `result` within `n` more loads, on the
memory of `s`. -/
inductive State.WalksIn (s : State) (gatp : Word) (access : Access) :
    Nat → WalkProgress → Except XFault WalkResult → Prop
  | ended (n : Nat) (result : Except XFault WalkResult) : WalksIn s gatp access n (.ended result) result
  | load {n : Nat} {p : Pass} {result : Except XFault WalkResult}
      (rest : WalksIn s gatp access n (s.stepWalk gatp access p) result) :
      WalksIn s gatp access (n + 1) (.reading p) result

theorem State.WalksIn.mono {s : State} {gatp : Word} {access : Access} {n m : Nat} {w : WalkProgress}
    {result : Except XFault WalkResult} (h : s.WalksIn gatp access n w result) (le : n ≤ m) :
    s.WalksIn gatp access m w result := by
  induction h generalizing m with
  | ended n result => exact .ended m result
  | load rest ih =>
    obtain ⟨m, rfl⟩ := Nat.exists_eq_add_of_lt le
    exact .load (ih (by omega))

/-- A non-leaf PTE at level 0 is a fault, and no table follows it (R219). -/
theorem level_ne_zero_of_descend {r : Radix} {stageOne : Bool} {addr : Word} {level : Nat} {access : Access}
    {loaded : Option Word} {next : Word} (h : checkPte r stageOne addr level access loaded = .descend next) :
    level ≠ 0 := by
  rintro rfl
  unfold checkPte at h
  split at h
  next => cases h
  next =>
    rw [if_pos rfl] at h
    repeat' split at h
    all_goals cases h

theorem levels_le_five {atp : Word} {r : Radix} (h : atpMode atp = .radix r) : r.levels ≤ 5 := by
  unfold atpMode at h
  dsimp only at h
  repeat' split at h
  all_goals cases h <;> decide

section
variable {s : State} {gatp addr : Word} {access : Access} {stageOne : Bool} {outer : Option Perm} {n : Nat}
  {last : WalkResult → Except XFault WalkResult}

/-- The levels of a pass take one load each; what follows the leaf takes the loads it takes (R215). -/
theorem walksIn_levels {r : Radix} (level : Nat) (base : Word)
    (leaf : ∀ level base pa perm,
      s.WalksIn gatp access n (leafReached gatp ⟨stageOne, addr, r, level, base, outer⟩ pa perm)
        (last ⟨pa, 0xFFF, perm⟩)) :
    s.WalksIn gatp access (level + n + 1) (.reading ⟨stageOne, addr, r, level, base, outer⟩)
      ((s.walkLevels r stageOne addr access level base).bind fun found => last ⟨found.1, 0xFFF, found.2⟩) := by
  refine .load ?_
  induction level, base using State.walkLevels.induct s r stageOne addr access with
  | case1 level base c verdict =>
    rw [State.stepWalk, State.walkLevels, verdict]
    exact .ended _ _
  | case2 level base pa perm verdict =>
    rw [State.stepWalk, State.walkLevels, verdict]
    exact (leaf level base pa perm).mono (by omega)
  | case3 base next verdict => exact absurd rfl (level_ne_zero_of_descend verdict)
  | case4 base next level verdict ih =>
    rw [State.stepWalk, State.walkLevels, verdict, Nat.succ_add]
    exact .load ih

/-- A pass takes at most five loads (R111, R420). -/
theorem walksIn_startPass (atp : Word)
    (bare : atpMode atp = .bare →
      last ⟨addr, BitVec.allOnes 64, .rw⟩ = .ok ⟨addr, BitVec.allOnes 64, .rw⟩)
    (leaf : ∀ r level base pa perm,
      s.WalksIn gatp access n (leafReached gatp ⟨stageOne, addr, r, level, base, outer⟩ pa perm)
        (last ⟨pa, 0xFFF, perm⟩)) :
    s.WalksIn gatp access (5 + n) (startPass atp stageOne addr outer)
      ((s.walkPass atp stageOne addr access).bind last) := by
  unfold startPass State.walkPass
  cases mode : atpMode atp with
  | bare =>
    rw [show (Except.ok (ε := XFault) _).bind last = _ from bare mode]
    exact .ended _ _
  | unrecognized => exact .ended _ _
  | radix r =>
    dsimp only
    rcases fits : addressFits r stageOne addr
    · exact .ended _ _
    · have levels := walksIn_levels (s := s) (access := access) (r.levels - 1) (atpRoot atp) (leaf r)
      have short : r.levels ≤ 5 := levels_le_five mode
      rw [if_pos rfl, if_neg (by decide)]
      refine State.WalksIn.mono ?_ (show r.levels - 1 + n + 1 ≤ 5 + n by omega)
      cases ended : s.walkLevels r stageOne addr access (r.levels - 1) (atpRoot atp) <;> rw [ended] at levels <;>
        exact levels

end

section
variable (s : State) (iova gatp satp : Word) (access : Access)

/-- A pass of stage two alone is the whole walk (R224). -/
theorem walksIn_stageTwo :
    s.WalksIn gatp access 5 (startPass gatp false iova none) (s.walkPass gatp false iova access) := by
  have pass := walksIn_startPass (s := s) (gatp := gatp) (addr := iova) (access := access) (stageOne := false)
    (outer := none) (n := 0) (last := .ok) gatp (fun _ => rfl) (fun _ _ _ _ _ => .ended _ _)
  cases whole : s.walkPass gatp false iova access <;> rw [whole] at pass <;> exact pass

/-- The result of a walk whose stage-one result is `one`: stage two's, unless gatp is BARE (R224, R226). -/
def State.chain (s : State) (gatp : Word) (access : Access) (one : WalkResult) : Except XFault WalkResult :=
  if atpMode gatp = .bare then .ok one
  else (s.walkPass gatp false one.pa access).map fun two => ⟨two.pa, 0xFFF, one.perm.inter two.perm⟩

/-- The second pass translates the address of the stage-one leaf (R224). -/
theorem walksIn_chain (level : Nat) (base pa : Word) (r : Radix) (perm : Perm) :
    s.WalksIn gatp access 5 (leafReached gatp ⟨true, iova, r, level, base, none⟩ pa perm)
      (s.chain gatp access ⟨pa, 0xFFF, perm⟩) := by
  by_cases bare : atpMode gatp = .bare
  · simp only [leafReached, State.chain, bare]
    exact .ended _ _
  · have pass := walksIn_startPass (s := s) (gatp := gatp) (addr := pa) (access := access) (stageOne := false)
      (outer := some perm) (n := 0) (last := fun two => .ok ⟨two.pa, 0xFFF, perm.inter two.perm⟩) gatp
      (fun mode => absurd mode bare) (fun _ _ _ _ _ => .ended _ _)
    simp only [leafReached, State.chain, if_neg bare]
    rw [if_pos (by simpa using bare)]
    cases whole : s.walkPass gatp false pa access <;> rw [whole] at pass <;> exact pass

/-- A walk with a stage-one table is stage one, chained (R224). -/
theorem walk_eq_bind (notBare : atpMode satp ≠ .bare) :
    s.walk iova gatp satp true access = (s.walkPass satp true iova access).bind (s.chain gatp access) := by
  rw [State.walk, if_neg (by decide)]
  split
  next bare => exact absurd bare notBare
  next =>
    cases s.walkPass satp true iova access with
    | error f => rfl
    | ok one =>
      show (if _ then _ else _) = s.chain gatp access one
      unfold State.chain
      split
      next => rfl
      next =>
        cases second : s.walkPass gatp false one.pa access with
        | error f =>
          have phys : f.phys = one.pa := (walkPass_error second).phys
          rw [← phys]
          rfl
        | ok two => rfl

/-- A walk takes at most ten loads, five in each stage, and ends as the walk whole does (R215, R420). -/
theorem walksIn_startWalk (dc : DC) :
    s.WalksIn dc.gatp access 10 (startWalk iova dc.gatp dc.satp (stageOneEnabled dc))
      (s.walk iova dc.gatp dc.satp (stageOneEnabled dc) access) := by
  by_cases bare : atpMode dc.satp = .bare
  · have disabled : stageOneEnabled dc = false := by simpa [stageOneEnabled] using bare
    rw [disabled]
    exact (walksIn_stageTwo s iova dc.gatp access).mono (by decide)
  · have enabled : stageOneEnabled dc = true := by simpa [stageOneEnabled] using bare
    rw [enabled, walk_eq_bind s iova dc.gatp dc.satp access bare]
    exact walksIn_startPass dc.satp (fun mode => absurd mode bare)
      (fun r level base pa perm => walksIn_chain s iova dc.gatp access level base pa r perm)

end

end Sys2Proof.Machine
end

section
/-! The steps of an undisturbed translation end in the result and the effect of the entry point (R342 to R350, R420). -/

namespace Sys2Proof.Machine

theorem directoryDepth_le_two {mode : DdtMode} {d : Nat} (h : directoryDepth mode = some d) : d ≤ 2 := by
  cases mode <;> cases h <;> decide

theorem firstStep_nextTag (s : State) (did iova : Word) (access : Access) :
    (s.firstStep did iova access).2.nextTag = s.nextTag := by
  rcases firstStep_cases s did iova access with h | h
  · rw [h]
  · rw [h]
    rfl

theorem State.FreshTag.firstStep {s : State} (h : s.FreshTag) (did iova : Word) (access : Access) :
    (s.firstStep did iova access).2.FreshTag := by
  rcases firstStep_cases s did iova access with h' | h' <;> rw [h'] <;> exact h

/-! ### With a Device Context -/

/-- What a translation with a context makes of its pipeline's result: the access granted, or denied with the fault
reported unless DTF is set (R347, R348, R350). -/
def State.outcome (s : State) (did iova : Word) (access : Access) (dc : DC) :
    Except XFault WalkResult → TranslateResult × State
  | .ok w => (granted iova w.pa w.mask w.perm, s)
  | .error f => (denied iova, if dc.disableFault then s else s.report did f.cause (ttypOf access) iova f.phys)

section
variable (q : Request) (tag : Nat) (dc : DC) (s : State)

theorem settles_faultWithContext (f : XFault) :
    Settles q tag 1 (faultWithContext dc q.iova f) s (s.outcome q.did q.iova q.access dc (.error f)) := by
  unfold faultWithContext State.outcome
  split
  · exact .answer 1 _ s
  · exact settles_report q tag f.cause f.phys s

/-- A walk of `n` loads takes `n` steps, and its fault may take one more (R349). -/
theorem settles_ofWalk {n : Nat} {w : WalkProgress} {result : Except XFault WalkResult}
    (h : s.WalksIn dc.gatp q.access n w result) :
    Settles q tag (n + 1) (ofWalk dc q.iova w) s (s.outcome q.did q.iova q.access dc result) := by
  induction h with
  | ended n result =>
    cases result with
    | ok w => exact .answer _ _ s
    | error f => exact (settles_faultWithContext q tag dc s f).mono (by omega)
  | load rest ih => exact .step ih

/-- The pipeline with a known context takes at most ten loads and a report (R344, R345). -/
theorem settles_withContext :
    Settles q tag 11 (withContext s.cfg dc q.iova q.access) s
      (s.outcome q.did q.iova q.access dc (s.pipeline dc q.iova q.access)) := by
  unfold withContext State.pipeline
  split
  · exact (settles_faultWithContext q tag dc s _).mono (by decide)
  · split
    · exact (settles_faultWithContext q tag dc s _).mono (by decide)
    · exact .answer _ _ s
    · exact settles_ofWalk q tag dc s (walksIn_startWalk s q.iova q.access dc)

/-! ### With the directory walk -/

/-- What a translation makes of the directory walk's result: the fault reported, or the pipeline with the context filled
in (R342, R347, R350). -/
def State.fetchOutcome (s : State) (did iova : Word) (access : Access) :
    Except XFault DC → TranslateResult × State
  | .error f => (denied iova, s.report did f.cause (ttypOf access) iova f.phys)
  | .ok dc =>
    (s.fillCache did dc).outcome did iova access dc ((s.fillCache did dc).pipeline dc iova access)

theorem settles_fill :
    Settles q tag 12 (.wait (.fill dc)) s (s.fetchOutcome q.did q.iova q.access (.ok dc)) :=
  .step (settles_withContext q tag dc (s.fillCache q.did dc))

/-- A directory walk takes one load for each level (R183). -/
theorem settles_dirRead (level : Nat) (base : Word) :
    Settles q tag (level + 13) (.wait (.dirRead level base)) s
      (s.fetchOutcome q.did q.iova q.access (s.walkDirectory q.did level base)) := by
  induction level generalizing base with
  | zero =>
    refine .step ?_
    simp only [State.flightStep, Request.flight, State.walkDirectory]
    cases checkDeviceContext (s.memRead (directoryEntryAddr s.cfg q.did base 0) (dcStride s.cfg)) with
    | error f => exact (settles_report q tag f.cause f.phys s).mono (by decide)
    | ok dc => exact settles_fill q tag dc s
  | succ level ih =>
    rw [Nat.add_right_comm]
    refine .step ?_
    simp only [State.flightStep, Request.flight, State.walkDirectory]
    cases checkDirectoryEntry (s.memReadWord (directoryEntryAddr s.cfg q.did base (level + 1)) 8) with
    | error f => exact (settles_report q tag f.cause f.phys s).mono (by omega)
    | ok next => exact ih next

/-- From its start a directory walk takes at most three loads, the fill, ten loads and a report (R420). -/
theorem settles_startDirectory (mode : DdtMode) (root : Word) :
    Settles q tag 15 (startDirectory s.cfg mode root q.did) s
      (s.fetchOutcome q.did q.iova q.access (s.fetchDC mode root q.did)) := by
  unfold startDirectory State.fetchDC
  cases depth : directoryDepth mode with
  | none => exact (settles_report q tag .ddtUnsupported 0 s).mono (by decide)
  | some d =>
    have shallow : d ≤ 2 := directoryDepth_le_two depth
    dsimp only
    split
    · exact (settles_dirRead q tag s d root).mono (by omega)
    · exact (settles_report q tag .ddtInvalid 0 s).mono (by decide)

end

/-! ### The entry point -/

/-- The directory walk does not read the cache (R183). -/
theorem walkDirectory_das (s : State) (c : DasCache) (did : Word) (level : Nat) (base : Word) :
    ({ s with das := c } : State).walkDirectory did level base = s.walkDirectory did level base := by
  induction level generalizing base with
  | zero => rfl
  | succ level ih =>
    simp only [State.walkDirectory, ih]
    rfl

theorem fetchDC_das (s : State) (c : DasCache) (mode : DdtMode) (root did : Word) :
    ({ s with das := c } : State).fetchDC mode root did = s.fetchDC mode root did := by
  simp only [State.fetchDC, walkDirectory_das]

section
variable {s : State} {did : Word} (iova : Word) (access : Access)

/-- A cache hit goes to the pipeline (R342, R344). -/
theorem translateDirectory_of_hit {dc : DC} (hit : s.das.hit did = some dc) :
    s.translateDirectory did iova access =
      (s.touchCache did).outcome did iova access dc (s.pipeline dc iova access) := by
  rw [State.translateDirectory, State.getDC, hit]
  dsimp only
  rw [show (s.touchCache did).pipeline dc iova access = s.pipeline dc iova access from pipeline_das ..]
  cases s.pipeline dc iova access <;> rfl

/-- A miss goes to the directory walk (R342, R344). -/
theorem translateDirectory_of_miss (miss : s.das.hit did = none) :
    s.translateDirectory did iova access =
      (s.touchCache did).fetchOutcome did iova access (s.fetchDC s.ddtMode s.ddtBase did) := by
  rw [State.translateDirectory, State.getDC, miss]
  dsimp only
  cases s.fetchDC s.ddtMode s.ddtBase did with
  | error f => rfl
  | ok dc =>
    dsimp only [State.fetchOutcome]
    cases ((s.touchCache did).fillCache did dc).pipeline dc iova access <;> rfl

theorem translate_of_directory (directory : s.ddtMode.isDirectory = true) :
    s.translate did iova access = s.translateDirectory did iova access := by
  unfold State.translate
  split <;> simp_all [DdtMode.isDirectory]

end

/-- In a directory mode the lookup's step and what follows it are the entry point (R342, R349, R350). -/
theorem settles_lookup (q : Request) (tag : Nat) (s : State) :
    Settles q tag 15 (s.lookup q.did q.iova q.access) (s.touchCache q.did)
      (s.translateDirectory q.did q.iova q.access) := by
  unfold State.lookup
  cases hit : s.das.hit q.did with
  | some dc =>
    have settled := settles_withContext q tag dc (s.touchCache q.did)
    rw [show (s.touchCache q.did).pipeline dc q.iova q.access = _ from pipeline_das ..] at settled
    rw [translateDirectory_of_hit q.iova q.access hit]
    exact settled.mono (by decide)
  | none =>
    have settled := settles_startDirectory q tag (s.touchCache q.did) s.ddtMode s.ddtBase
    rw [show (s.touchCache q.did).fetchDC s.ddtMode s.ddtBase q.did = _ from fetchDC_das ..] at settled
    rw [translateDirectory_of_miss q.iova q.access hit]
    exact settled

/-- From the first step on, a translation comes to the result and the effect of the entry point (R349, R350). -/
theorem settles_firstStep (q : Request) (tag : Nat) (s : State) :
    Settles q tag 15 (s.firstStep q.did q.iova q.access).1 (s.firstStep q.did q.iova q.access).2
      (s.translate q.did q.iova q.access) := by
  cases directory : s.ddtMode.isDirectory with
  | true =>
    rw [firstStep_of_directory directory, translate_of_directory q.iova q.access directory]
    exact settles_lookup q tag s
  | false =>
    rcases (isDirectory_eq_false_iff _).mp directory with off | bare
    · rw [firstStep_of_off off, State.translate, off]
      exact (settles_report q tag .dmaDisabled 0 s).mono (by decide)
    · rw [firstStep_of_bare bare, State.translate, bare]
      exact .answer 15 _ s

end Sys2Proof.Machine

namespace Sys2Proof.Proofs

open Sys2Proof.Machine Sys2Proof.Claims

/-- Settles O50: the steps of the request are those of its pipeline in the state without it, and these end in the entry
point's result and state. -/
theorem undisturbedTranslationIsTheEntryPoint : Obligations.UndisturbedTranslationIsTheEntryPoint := by
  unfold Obligations.UndisturbedTranslationIsTheEntryPoint
  intro s did iova access fresh
  have settled := settles_firstStep ⟨did, iova, access, s.ddtMode, s.ddtBase⟩ s.nextTag s
  have nextTag : (s.firstStep did iova access).2.nextTag = s.nextTag := firstStep_nextTag s did iova access
  have stillFresh : (s.firstStep did iova access).2.FreshTag := State.FreshTag.firstStep fresh did iova access
  rw [beginTranslate_eq_standing, settled.advances nextTag.symm stillFresh, State.standing, settled.nextTag, nextTag]

end Sys2Proof.Proofs
end

section
/-! Which faults of a translation are reported (R345 to R348). -/

namespace Sys2Proof.Machine

/-! ### The outcome with a known context -/

section
variable (s : State) (did iova : Word) (access : Access) {dc : DC}

theorem outcome_das (result : Except XFault WalkResult) : (s.outcome did iova access dc result).2.das = s.das := by
  cases result with
  | ok w => rfl
  | error f =>
    unfold State.outcome
    dsimp only
    split
    · rfl
    · exact State.report_das ..

/-- With DTF nothing is reported (R347). -/
theorem outcome_of_disableFault (disabled : dc.disableFault = true) (result : Except XFault WalkResult) :
    (s.outcome did iova access dc result).2 = s := by
  cases result with
  | ok w => rfl
  | error f => exact if_pos disabled

/-- Without DTF a fault is reported as it is (R347). -/
theorem outcome_error_of_enabled (enabled : dc.disableFault = false) (f : XFault) :
    (s.outcome did iova access dc (.error f)).2 = s.report did f.cause (ttypOf access) iova f.phys :=
  if_neg (by simp [enabled])

end

/-! ### The faults of the pipeline, in their order -/

section
variable {s : State} {dc : DC} {iova : Word} {access : Access} {f : XFault}

/-- PDTV stands before the MSI check (R345). -/
theorem pipeline_of_pdtv (pdtv : dc.pdtv = true) : s.pipeline dc iova access = .error ⟨.ddtUnsupported, 0⟩ :=
  if_pos pdtv

theorem pipeline_of_msi_error (noPdtv : dc.pdtv = false) (msi : msiCheck s.cfg dc iova access = .error f) :
    s.pipeline dc iova access = .error f := by
  simp [State.pipeline, noPdtv, msi]

theorem pipeline_of_fallThrough (noPdtv : dc.pdtv = false) (msi : msiCheck s.cfg dc iova access = .ok .fallThrough) :
    s.pipeline dc iova access = s.walk iova dc.gatp dc.satp (stageOneEnabled dc) access := by
  simp [State.pipeline, noPdtv, msi]

end

/-! ### The translation in a directory mode -/

/-- A translation with a known context is that context's pipeline, on `s` with what became of the cache (R342, R344). -/
theorem translate_of_context {s : State} {did iova : Word} {access : Access} {dc : DC}
    (directory : s.ddtMode.isDirectory = true)
    (known : s.das.hit did = some dc ∨ s.das.hit did = none ∧ s.fetchDC s.ddtMode s.ddtBase did = .ok dc) :
    s.translate did iova access =
      ({ s with das := (s.translate did iova access).2.das } : State).outcome did iova access dc
        (s.pipeline dc iova access) := by
  have reached : ∃ c, s.translate did iova access =
      ({ s with das := c } : State).outcome did iova access dc (s.pipeline dc iova access) := by
    rw [translate_of_directory iova access directory]
    rcases known with hit | ⟨miss, fetched⟩
    · exact ⟨_, translateDirectory_of_hit iova access hit⟩
    · rw [translateDirectory_of_miss iova access miss, fetched, State.fetchOutcome,
        show ((s.touchCache did).fillCache did dc).pipeline dc iova access = _ from pipeline_das s _ dc iova access]
      exact ⟨_, rfl⟩
  obtain ⟨c, whole⟩ := reached
  have das : (s.translate did iova access).2.das = c := by rw [whole, outcome_das]
  rw [das]
  exact whole

/-- A fault of the pipeline denies the access and is reported as it is, unless DTF is set (R347, R348). -/
theorem translate_of_pipeline_error {s : State} {did iova : Word} {access : Access} {dc : DC} {f : XFault}
    (directory : s.ddtMode.isDirectory = true)
    (known : s.das.hit did = some dc ∨ s.das.hit did = none ∧ s.fetchDC s.ddtMode s.ddtBase did = .ok dc)
    (fault : s.pipeline dc iova access = .error f) :
    (s.translate did iova access).1 = denied iova ∧
      (dc.disableFault = false →
        (s.translate did iova access).2 =
          ({ s with das := (s.translate did iova access).2.das } : State).report did f.cause (ttypOf access) iova
            f.phys) := by
  have whole := translate_of_context (iova := iova) (access := access) directory known
  rw [fault] at whole
  exact ⟨(congrArg Prod.fst whole).trans rfl,
    fun enabled => (congrArg Prod.snd whole).trans (outcome_error_of_enabled _ did iova access enabled f)⟩

/-- A fault of the directory walk denies the access and is reported (R347, R348). -/
theorem translate_of_fetch_error {s : State} {did : Word} {f : XFault} (iova : Word) (access : Access)
    (directory : s.ddtMode.isDirectory = true) (miss : s.das.hit did = none)
    (fault : s.fetchDC s.ddtMode s.ddtBase did = .error f) :
    s.translate did iova access =
      (denied iova,
        ({ s with das := (s.translate did iova access).2.das } : State).report did f.cause (ttypOf access) iova
          f.phys) := by
  have whole : s.translate did iova access =
      (denied iova, (s.touchCache did).report did f.cause (ttypOf access) iova f.phys) := by
    rw [translate_of_directory iova access directory, translateDirectory_of_miss iova access miss, fault,
      State.fetchOutcome]
  have das : (s.translate did iova access).2.das = (s.touchCache did).das := by rw [whole, State.report_das]
  rw [das]
  exact whole

/-! ### The machine's own steps -/

theorem ofWalk_disableFault {dc : DC} (disabled : dc.disableFault = true) (iova : Word) (w : WalkProgress) (c : Cause)
    (phys : Word) : ofWalk dc iova w ≠ .wait (.report c phys) := by
  unfold ofWalk faultWithContext
  split <;> simp [disabled]

/-- A lookup that finds a context with DTF leads to no report (R347). -/
theorem firstStep_disableFault {s : State} {did : Word} {dc : DC} (disabled : dc.disableFault = true)
    (notOff : s.ddtMode ≠ .off) (hit : s.das.hit did = some dc) (iova : Word) (access : Access) (c : Cause)
    (phys : Word) : (s.firstStep did iova access).1 ≠ .wait (.report c phys) := by
  cases directory : s.ddtMode.isDirectory with
  | true =>
    rw [firstStep_of_directory directory, State.lookup, hit]
    exact withContext_disableFault disabled c phys
  | false =>
    have bare := ((isDirectory_eq_false_iff _).mp directory).resolve_left notOff
    rw [firstStep_of_bare bare]
    exact nofun

/-- A flight that carries a context with DTF comes to no report (R347). -/
theorem flightStep_disableFault {f : Flight} {dc : DC} (disabled : dc.disableFault = true)
    (carried : f.phase.context = some dc) (s : State) (c : Cause) (phys : Word) :
    (s.flightStep f).1 ≠ .wait (.report c phys) := by
  obtain ⟨tag, did, iova, access, mode, root, phase⟩ := f
  cases phase with
  | fill dc' =>
    cases carried
    exact withContext_disableFault disabled c phys
  | pteRead dc' pass =>
    cases carried
    exact ofWalk_disableFault disabled iova _ c phys
  | dirRead level base => cases carried
  | report c' phys' => cases carried

end Sys2Proof.Machine

namespace Sys2Proof.Proofs

open Sys2Proof.Machine Sys2Proof.Claims

/-- Settles O60: a fault with a context goes through `State.outcome`, which asks DTF; the order of the faults is the
pipeline's. -/
theorem faultsAreReportedUnlessDisabled : Obligations.FaultsAreReportedUnlessDisabled := by
  unfold Obligations.FaultsAreReportedUnlessDisabled
  intro s did iova access
  simp only [← ttypOf_eq]
  refine ⟨fun notOff notBare => ?_, fun f dc c phys disabled =>
    ⟨fun notOff hit => firstStep_disableFault disabled notOff hit iova access c phys,
      fun carried => flightStep_disableFault disabled carried s c phys⟩⟩
  have directory : s.ddtMode.isDirectory = true := by
    rw [← Bool.not_eq_false, isDirectory_eq_false_iff]
    exact not_or.mpr ⟨notOff, notBare⟩
  refine ⟨fun f miss fault => translate_of_fetch_error iova access directory miss fault, fun dc known => ?_⟩
  refine ⟨fun disabled => ?_, fun pdtv => ?_, fun f noPdtv msi => ?_, fun f noPdtv msi walked => ?_⟩
  · exact (congrArg Prod.snd (translate_of_context directory known)).trans
      (outcome_of_disableFault _ did iova access disabled _)
  · exact translate_of_pipeline_error directory known (f := ⟨.ddtUnsupported, 0⟩) (pipeline_of_pdtv pdtv)
  · exact translate_of_pipeline_error directory known (pipeline_of_msi_error noPdtv msi)
  · exact translate_of_pipeline_error directory known ((pipeline_of_fallThrough noPdtv msi).trans walked)

end Sys2Proof.Proofs
end

section
/-! The state after reset (R51, R400): what its registers and window show, what its agents do, and the invariants. -/

namespace Sys2Proof.Machine

/-! ### The registers and the window -/

@[simp] theorem queue_resetWith (cfg : Config) (q : QueueId) : (State.resetWith cfg).queue q = Queue.reset := by
  cases q <;> rfl

@[simp] theorem getD_msi_resetWith (cfg : Config) (v : Nat) :
    (State.resetWith cfg).msi.getD v MsiEntry.reset = MsiEntry.reset := by
  rw [State.resetWith, List.getD_eq_getElem?_getD, List.getElem?_getD_replicate_default_eq]

@[simp] theorem getD_pba_resetWith (cfg : Config) (k : Nat) : (State.resetWith cfg).pba.getD k 0 = 0 := by
  rw [State.resetWith, List.getD_eq_getElem?_getD, List.getElem?_getD_replicate_default_eq]

/-- Every register but CAPS, whose value is a parameter, reads 0 after reset (R27, R400). -/
theorem readReg_resetWith (cfg : Config) {r : Reg} (h : r ≠ .caps) : (State.resetWith cfg).readReg r = 0 := by
  cases r with
  | caps => exact absurd rfl h
  | ddtp | ipsr | icvec => rfl
  | base q | head q | tail q | csr q =>
    rw [State.readReg, queue_resetWith]
    rfl
  | msiAddr v | msiData v | msiCtrl v =>
    rw [State.readReg, getD_msi_resetWith]
    rfl

/-- With the default CAPS value every register reads 0 after reset (R8, R400). -/
theorem readReg_reset (r : Reg) : State.reset.readReg r = 0 := by
  by_cases caps : r = .caps
  · rw [caps]
    rfl
  · exact readReg_resetWith Config.standard caps

/-- Where every register and every PBA byte is 0, the whole window reads 0 (R39, R40, R150). -/
theorem windowByte_eq_zero {s : State} (regs : ∀ r, s.readReg r = 0) (pba : ∀ k, s.pba.getD k 0 = 0) (o : Nat) :
    s.windowByte o = 0 := by
  unfold State.windowByte
  split
  · rfl
  · split
    · exact pba _
    · split
      · rw [regs]
        exact BitVec.extractLsb'_zero
      · rfl

/-! ### The agents -/

/-- After reset nothing waits for the processor (R51, R271). -/
theorem pending_resetWith (cfg : Config) (d : Dispatch) : (State.resetWith cfg).pending d = false := by
  cases d with
  | drain | startDrain => rfl
  | csr q =>
    rw [State.pending, queue_resetWith]
    exact BitVec.getLsbD_zero
  | ddtp => exact BitVec.getLsbD_zero

/-- A processor for which nothing waits is idle (R270). -/
theorem processorStep_of_idle {s : State} (idle : ∀ d, s.pending d = false) : s.processorStep = .next s := by
  simp [processorStep_eq, idle]

/-- In OFF every access is denied, with a report of DMA_DISABLED (R350). -/
theorem translate_of_off {s : State} (off : s.ddtMode = .off) (did iova : Word) (access : Access) :
    s.translate did iova access = (denied iova, s.report did .dmaDisabled (ttypOf access) iova 0) := by
  rw [State.translate, off]

/-- After reset the fault queue is inactive, so that no report changes anything (R320, R400). -/
theorem report_resetWith (cfg : Config) (did : Word) (c : Cause) (ttyp : BitVec 6) (iova phys : Word) :
    (State.resetWith cfg).report did c ttyp iova phys = State.resetWith cfg :=
  report_of_not_allowed did c ttyp iova phys (show recordAllowed (Queue.reset).csr = false by decide)

/-! ### The invariants -/

theorem canonical_resetWith (cfg : Config) : (State.resetWith cfg).Canonical where
  mem := ⟨.nil, nofun⟩
  das := .nil

theorem tablesSized_resetWith (cfg : Config) : (State.resetWith cfg).TablesSized where
  msi := List.length_replicate
  pba := List.length_replicate

theorem reservedZero_resetWith (cfg : Config) : (State.resetWith cfg).ReservedZero where
  ddtp := BitVec.zero_and
  bases q := by
    rw [queue_resetWith]
    exact BitVec.zero_and
  cqcsr := BitVec.zero_and
  fqcsr := BitVec.zero_and
  pqcsr := BitVec.zero_and
  ipsr := BitVec.zero_and
  icvec := BitVec.zero_and
  msi e he := by
    rw [List.eq_of_mem_replicate he]
    decide

/-- A queue that was never enabled has mask 0 and is inactive and unarmed (R43, R46, R51). -/
theorem Queue.reset_shaped : Queue.reset.Shaped where
  base := ⟨0, by decide⟩
  mask := .inl rfl
  armed := by decide
  active := by decide

/-- After reset DDTP shows the mode OFF and the base 0, the active ones (R29, R51). -/
theorem directoryShown_resetWith (cfg : Config) : (State.resetWith cfg).DirectoryShown where
  base := ⟨0, show (0 : Word) = pageAddr (0 : BitVec 44) by decide⟩
  mode _ := show ddtModeOfCode (ddtpMode 0) = some .off by decide
  page _ := show pageAddr (ddtpPpn 0) = 0 by decide

theorem registerInv_resetWith (cfg : Config) : (State.resetWith cfg).RegisterInv where
  reserved := reservedZero_resetWith cfg
  queues := ⟨Queue.reset_shaped, Queue.reset_shaped, Queue.reset_shaped⟩
  directory := directoryShown_resetWith cfg
  drain := nofun

/-- After reset nothing is cached, in flight or handed out, and no tag is used (R400). -/
theorem translationInv_resetWith (cfg : Config) : (State.resetWith cfg).TranslationInv where
  contexts := ⟨fun _ cached => absurd cached List.not_mem_nil, fun _ carried => absurd carried List.not_mem_nil⟩
  answered := ⟨.nil, fun _ used => absurd used List.not_mem_nil, fun _ below => absurd below (Nat.not_lt_zero _)⟩
  notifies _ _ handedOut := absurd handedOut List.not_mem_nil

end Sys2Proof.Machine

namespace Sys2Proof.Proofs

open Sys2Proof.Machine Sys2Proof.Claims

/-- Settles O54: the registers and the PBA are all 0, the mode is OFF with an inactive fault queue, and no dispatch of the
processor is pending. -/
theorem resetDeniesEveryAccess : Obligations.ResetDeniesEveryAccess := by
  unfold Obligations.ResetDeniesEveryAccess
  refine ⟨windowByte_eq_zero readReg_reset (getD_pba_resetWith Config.standard), fun did iova access => ⟨?_, ?_⟩⟩
  · rw [translate_of_off rfl, State.reset, report_resetWith]
    rfl
  · exact processorStep_of_idle (pending_resetWith Config.standard)

/-- Settles O55: the base case of the step lemmas, from the invariants of the tables, the registers and the translations. -/
theorem resetMeetsTheInvariants : Obligations.ResetMeetsTheInvariants := by
  unfold Obligations.ResetMeetsTheInvariants
  intro cfg
  obtain ⟨reserved, queues, directory, drain⟩ := registerInv_resetWith cfg
  obtain ⟨contexts, answered, notifies⟩ := translationInv_resetWith cfg
  exact ⟨canonical_resetWith cfg, tablesSized_resetWith cfg, reserved, queues, directory, drain, contexts, answered,
    notifies⟩

end Sys2Proof.Proofs
end
